-- ==== Sys2Proof/Word.lean ====
section
/-! DEFINITION. The word types of CORE (`00_scope.md` R9, R10, R13; `20_memory.md` R67, R68).

Every quantity of the data path is a sequence of bytes; no multi-byte integer is built from one.
The few registers wider than a byte are bit vectors of their own width. -/

namespace Sys2Proof

/-- A byte; bit 7 is the most significant bit (R9). -/
abbrev Byte := BitVec 8

/-- The datum or the register number of one host access (R60). -/
abbrev Word32 := BitVec 32

/-- A command word in format C16 (R90). -/
abbrev CmdWord := BitVec 16

/-- 16 bytes, lowest index first: the State, an IV, a round key, a message block (R13, R69). -/
abbrev Block := Vector Byte 16

/-- A schedule word: 4 bytes in index order, never an integer (R10, R68). -/
abbrev Word4 := Vector Byte 4

/-- The source's `direction` argument: forward is the encrypting direction (glossary, R94). -/
inductive Direction where
  | forward
  | inverse
  deriving DecidableEq, Repr

end Sys2Proof
end

