-- ==== Sys2Proof/Syntax.lean ====
section
/-! DEFINITION. The 21 commands of CORE, one constructor for each row of the opcode table
(`30_encoding.md` R93). -/

namespace Sys2Proof

/-- A command (R93). Its operands stand in fixed registers (R91); the one immediate is ADDRK's. -/
inductive Instr where
  /-- NOP, 0x00. -/
  | nop
  /-- ZEROIZE, 0x01. -/
  | zeroize
  /-- GFMUL, 0x10. -/
  | gfmul
  /-- SUBB.F, 0x20. -/
  | subbF
  /-- SUBB.I, 0x21. -/
  | subbI
  /-- SUBS.F, 0x22. -/
  | subsF
  /-- SUBS.I, 0x23. -/
  | subsI
  /-- SHR.F, 0x30. -/
  | shrF
  /-- SHR.I, 0x31. -/
  | shrI
  /-- MIXC.F, 0x32. -/
  | mixcF
  /-- MIXC.I, 0x33. -/
  | mixcI
  /-- ADDRK r, 0x34; `r` is the round-key index, 0 to 15 (R92). -/
  | addrk (r : Nat)
  /-- KEXP, 0x40. -/
  | kexp
  /-- ENCB, 0x50. -/
  | encb
  /-- DECB, 0x51. -/
  | decb
  /-- PAD, 0x60. -/
  | pad
  /-- UNPAD, 0x61. -/
  | unpad
  /-- CBCENC, 0x62. -/
  | cbcenc
  /-- CBCDEC, 0x63. -/
  | cbcdec
  /-- SEAL, 0x70. -/
  | sealContainer
  /-- OPEN, 0x71. -/
  | openContainer
  deriving DecidableEq, Repr

end Sys2Proof
end

