-- ==== Sys2Proof/WellFormed.lean ====
section
/-! DEFINITION. Which terms of `Instr` are commands the format C16 can carry (`30_encoding.md`
R90, R92): the immediate RND has four bits. Nothing else in a command can be ill formed. -/

namespace Sys2Proof

/-- The immediate fits its four-bit field (R90, R92). -/
def Instr.wellFormed : Instr → Bool
  | .addrk r => r ≤ 15
  | .nop | .zeroize | .gfmul | .subbF | .subbI | .subsF | .subsI | .shrF | .shrI | .mixcF
  | .mixcI | .kexp | .encb | .decb | .pad | .unpad | .cbcenc | .cbcdec | .sealContainer
  | .openContainer => true

end Sys2Proof
end

