-- ==== Sys2Proof/Decode.lean ====
section
/-! DEFINITION. Decoding a command word (`30_encoding.md` R90 to R97), total on all 2^16 words and
rejecting by name, and after it the encoder written from the same tables. -/

namespace Sys2Proof

/-- Why a word is illegal (R95). All three raise IllegalCommand (R96, R252). -/
inductive DecodeError where
  /-- Bits [15:12] are not 0000. -/
  | zeroFieldSet
  /-- Bits [7:0] are none of the 21 opcodes. -/
  | unassignedOpcode
  /-- Bits [11:8] are not 0000 in a command other than ADDRK. -/
  | rndFieldSet
  deriving DecidableEq, Repr

/-- Field ZERO, bits [15:12] (R90). -/
def zeroField (w : CmdWord) : BitVec 4 := w.extractLsb' 12 4

/-- Field RND, bits [11:8] (R90). -/
def rndField (w : CmdWord) : BitVec 4 := w.extractLsb' 8 4

/-- Field OPC, bits [7:0] (R90). -/
def opcField (w : CmdWord) : BitVec 8 := w.extractLsb' 0 8

/-- The command of an opcode (R93); `r` is ADDRK's immediate, zero-extended (R92). -/
def instrOfOpcode (opc : BitVec 8) (r : Nat) : Option Instr :=
  match opc with
  | 0x00#8 => some .nop
  | 0x01#8 => some .zeroize
  | 0x10#8 => some .gfmul
  | 0x20#8 => some .subbF
  | 0x21#8 => some .subbI
  | 0x22#8 => some .subsF
  | 0x23#8 => some .subsI
  | 0x30#8 => some .shrF
  | 0x31#8 => some .shrI
  | 0x32#8 => some .mixcF
  | 0x33#8 => some .mixcI
  | 0x34#8 => some (.addrk r)
  | 0x40#8 => some .kexp
  | 0x50#8 => some .encb
  | 0x51#8 => some .decb
  | 0x60#8 => some .pad
  | 0x61#8 => some .unpad
  | 0x62#8 => some .cbcenc
  | 0x63#8 => some .cbcdec
  | 0x70#8 => some .sealContainer
  | 0x71#8 => some .openContainer
  | _ => none

/-- The decoding algorithm of R95, its three tests in the rule's order. -/
def decode (w : CmdWord) : Except DecodeError Instr :=
  if zeroField w ≠ 0 then .error .zeroFieldSet
  else match instrOfOpcode (opcField w) (rndField w).toNat with
    | none => .error .unassignedOpcode
    | some i => if opcField w ≠ 0x34 ∧ rndField w ≠ 0 then .error .rndFieldSet else .ok i

/-- The command word in the value a host writes to CMD: its low 16 bits (R24, R62). -/
def cmdWordOf (v : Word32) : CmdWord := v.extractLsb' 0 16

/-- What the decoder reads from the bits `w` of an opcode-table row that has `nbits` bits: a
command is one 16-bit word (R97), and every bit of it above `nbits` is 0. -/
def decodeTableWord (nbits w : Nat) : Option Instr :=
  (decode (BitVec.ofNat 16 (w % 2 ^ nbits))).toOption

/-- The opcode of a command (R93). -/
def Instr.opcode : Instr → BitVec 8
  | .nop => 0x00
  | .zeroize => 0x01
  | .gfmul => 0x10
  | .subbF => 0x20
  | .subbI => 0x21
  | .subsF => 0x22
  | .subsI => 0x23
  | .shrF => 0x30
  | .shrI => 0x31
  | .mixcF => 0x32
  | .mixcI => 0x33
  | .addrk _ => 0x34
  | .kexp => 0x40
  | .encb => 0x50
  | .decb => 0x51
  | .pad => 0x60
  | .unpad => 0x61
  | .cbcenc => 0x62
  | .cbcdec => 0x63
  | .sealContainer => 0x70
  | .openContainer => 0x71

/-- Field RND of a command: ADDRK's round-key index, 0000 in every other command (R90). -/
def Instr.rnd : Instr → BitVec 4
  | .addrk r => BitVec.ofNat 4 r
  | .nop | .zeroize | .gfmul | .subbF | .subbI | .subsF | .subsI | .shrF | .shrI | .mixcF
  | .mixcI | .kexp | .encb | .decb | .pad | .unpad | .cbcenc | .cbcdec | .sealContainer
  | .openContainer => 0

/-- The word of a command: ZERO, RND, OPC from the top (R90). -/
def encode (i : Instr) : CmdWord := 0#4 ++ i.rnd ++ i.opcode

end Sys2Proof
end

