-- ==== Sys2Proof/Config.lean ====
section
/-! DEFINITION. What is configuration and not state: `BUF_CAP`, `MacLen` and `Mac`
(`00_scope.md` R8, `10_state.md` R40, `60_exceptions.md` R268, R269).

The spec leaves all three OPEN. The functions of the model take them as an argument of type
`Params`; the machine itself runs with `Config.params`, which is made of constants WITHOUT a body,
so that no proof can learn anything about them but the bounds the spec states (log entry 1). -/

namespace Sys2Proof

/-- The open parameters of CORE (R8). -/
structure Params where
  /-- Capacity of BUF in bytes. -/
  bufCap : Nat
  /-- Length of a tag in bytes. -/
  macLen : Nat
  /-- The keyed-hash unit: key bytes, then message bytes. -/
  mac : List Byte → List Byte → List Byte

/-- What R8 and R269 require of the parameters, and nothing else. -/
structure Params.Legal (P : Params) : Prop where
  macLen_pos : 1 ≤ P.macLen
  macLen_le : P.macLen ≤ 65535
  bufCap_ge : 32 + P.macLen ≤ P.bufCap
  bufCap_le : P.bufCap ≤ 2 ^ 32 - 2 ^ 16
  mac_length : ∀ key msg, 1 ≤ key.length → key.length ≤ 256 → (P.mac key msg).length = P.macLen

namespace Config

/-- Uninterpreted: selects `MacLen` among its legal values. -/
opaque macLenChoice : Nat

/-- Uninterpreted: selects `BUF_CAP` among its legal values. -/
opaque bufCapChoice : Nat

/-- Uninterpreted: byte `j` of `Mac(key, message)`. -/
opaque macByte : List Byte → List Byte → Nat → Byte

/-- Some value from 1 to 65535 (R8); every one of them can be it. -/
def macLen : Nat := macLenChoice % 65535 + 1

/-- Some value from 32 + MacLen to 2^32 − 2^16 (R8); every one of them can be it. -/
def bufCap : Nat := macLen + bufCapChoice % (2 ^ 32 - 2 ^ 16 - 31 - macLen) + 32

/-- The MAC port (R268): a total function whose result has `MacLen` bytes (R269). -/
def mac (key msg : List Byte) : List Byte := (List.range macLen).map (macByte key msg)

/-- The parameters CORE runs with. -/
def params : Params where
  bufCap := bufCap
  macLen := macLen
  mac := mac

end Config
end Sys2Proof
end

