-- ==== Sys2Proof/Machine/State.lean ====
section
/-! DEFINITION. The state of CORE, plain data (`10_state.md` R20 to R39), with the host's side of
the interface beside it, and the state after reset. -/

namespace Sys2Proof.Machine

/-- A byte file of a size that is a parameter (BUF, TAGX), as the list of its bytes that are not
0x00: index and byte, indices strictly rising. An unlisted index reads as 0x00, which is what the
spec gives every byte after reset (R39, R280). -/
abbrev Memory := List Host.Cell

/-- The sequencer's phase (R22, `44_block_engine.md` R170, R171, `45_cbc_driver.md` R196). -/
inductive Phase where
  | idle
  | eInit
  | eRound
  | eFinal
  | dInit
  | dRound
  | dFinal
  | cLoadX
  | cStore
  | cSave
  | cStoreX
  deriving DecidableEq, Repr

/-- The multiplier's working copies (R37, `40_gf_multiplier.md` R111). -/
structure MulRegs where
  a : Byte
  b : Byte
  p : Byte
  deriving DecidableEq, Repr

/-- The hidden registers (R37). None is host-addressable, and between commands all are 0 (R38). -/
structure Hidden where
  /-- CV: the chaining value C_{i−1}. -/
  cv : Block
  /-- SAVE: the copy of C_i taken before it is overwritten. -/
  save : Block
  /-- TAGX: the tag OPEN recomputes, MacLen bytes. -/
  tagx : Memory
  /-- The multiplier's a, b and p. -/
  mul : MulRegs
  /-- The sequencer's phase. -/
  phase : Phase
  /-- R: the round counter. -/
  round : BitVec 4
  /-- BI: the block index. -/
  blockIx : BitVec 28
  deriving DecidableEq, Repr

/-- Every hidden register 0 and the sequencer IDLE (R38, R39). -/
def Hidden.idle : Hidden where
  cv := Vector.replicate 16 0
  save := Vector.replicate 16 0
  tagx := []
  mul := { a := 0, b := 0, p := 0 }
  phase := .idle
  round := 0
  blockIx := 0

/-- What the outside world does to CORE: one host read or write of a register
(`20_memory.md` R61, R62), or a pulse on the reset input (`70_reset_and_hazards.md` R280). -/
inductive HostEvent where
  /-- RD n. -/
  | read (n : Word32)
  /-- WR n, v. -/
  | write (n v : Word32)
  /-- The reset input is asserted and released. -/
  | reset
  deriving DecidableEq, Repr

/-- No command of CORE faults: an error is a defined outcome, reported in STATUS (R245). So this
type has no constructor and no step ends in a fault. -/
inductive Fault where
  deriving DecidableEq, Repr

/-- Why a command has no meaning. -/
inductive Refusal where
  /-- Raised by an arm of `exec` that has no meaning yet; safe. No arm of this model raises it. -/
  | notModelled (mnemonic : String)
  deriving DecidableEq, Repr

/-- The whole state (R20), and the two fields at the end, which are the host's and not CORE's
(log entry 2). -/
structure State where
  /-- OPA: operand a of Multiply, operand x of SubstituteByte (R21). -/
  opa : Byte
  /-- OPB: operand b of Multiply (R21). -/
  opb : Byte
  /-- RES: the result byte (R21). -/
  res : Byte
  /-- KLEN: length of the key (R26). -/
  klen : Byte
  /-- IVLEN: length of the IV (R27). -/
  ivlen : Byte
  /-- MKLEN: length of the MAC key (R28). -/
  mklen : BitVec 16
  /-- LEN: number of valid bytes at the start of BUF (R29). -/
  len : Word32
  /-- STATUS.ERR: the outcome of the most recent command (R25). -/
  err : BitVec 4
  /-- STATUS.SUB: the sub-cause when ERR = 1 (R25). -/
  sub : BitVec 3
  /-- STATUS.RKV: RK holds a complete schedule (R23). -/
  rkv : Bool
  /-- STATUS.NR: the round count of that schedule (R25). -/
  nr : BitVec 4
  /-- ST: the State; byte `r + 4c` is row r, column c (R21, R13). -/
  st : Block
  /-- IV (R32). -/
  iv : Block
  /-- KEY (R31). -/
  key : Vector Byte 32
  /-- RK: the round-key schedule (R33). -/
  rk : Vector Byte 240
  /-- MKEY: the MAC key (R34). -/
  mkey : Vector Byte 256
  /-- BUF: the data buffer, BUF_CAP bytes (R35). -/
  buf : Memory
  /-- The hidden registers (R37). -/
  hidden : Hidden
  /-- The host's accesses that are still to come, the next one first. -/
  pending : List HostEvent
  /-- The values the host's reads have returned, the oldest first. -/
  readData : List Word32
  deriving DecidableEq, Repr

/-- The state after reset: every register of R20 is 0 (R39, R280). No host access is waiting. -/
def State.reset : State where
  opa := 0
  opb := 0
  res := 0
  klen := 0
  ivlen := 0
  mklen := 0
  len := 0
  err := 0
  sub := 0
  rkv := false
  nr := 0
  st := Vector.replicate 16 0
  iv := Vector.replicate 16 0
  key := Vector.replicate 32 0
  rk := Vector.replicate 240 0
  mkey := Vector.replicate 256 0
  buf := []
  hidden := Hidden.idle
  pending := []
  readData := []

end Sys2Proof.Machine
end

