-- ==== Sys2Proof/Machine/Flags.lean ====
section
/-! DEFINITION. The status fields: the error codes, how STATUS reads, and the outcome of a command
that succeeds (`10_state.md` R23, R25; `60_exceptions.md` R246, R247, R259). -/

namespace Sys2Proof.Machine

/-- The errors of R246. -/
inductive CmdError where
  /-- Code 1, with its sub-cause (R247). -/
  | keyMaterialUnavailable (cause : BitVec 3)
  /-- Code 2 (R248). -/
  | invalidCiphertextLength
  /-- Code 3 (R249). -/
  | invalidPadding
  /-- Code 4 (R250). -/
  | integrityError
  /-- Code 5: reserved for the host, never raised by CORE (R251). -/
  | ioFailure
  /-- Code 6 (R252). -/
  | illegalCommand
  /-- Code 7 (R253). -/
  | scheduleInvalid
  deriving DecidableEq, Repr

/-- STATUS.ERR of an error (R246). -/
def CmdError.code : CmdError → BitVec 4
  | .keyMaterialUnavailable _ => 1
  | .invalidCiphertextLength => 2
  | .invalidPadding => 3
  | .integrityError => 4
  | .ioFailure => 5
  | .illegalCommand => 6
  | .scheduleInvalid => 7

/-- STATUS.SUB of an error: 0 but for code 1 (R25, R246). -/
def CmdError.cause : CmdError → BitVec 3
  | .keyMaterialUnavailable c => c
  | .invalidCiphertextLength | .invalidPadding | .integrityError | .ioFailure | .illegalCommand
  | .scheduleInvalid => 0

/-- The cause KLEN of KeyMaterialUnavailable (R247). -/
def causeKlen : BitVec 3 := 1

/-- The cause IVLEN of KeyMaterialUnavailable (R247). -/
def causeIvlen : BitVec 3 := 2

/-- The cause MKLEN of KeyMaterialUnavailable (R247). -/
def causeMklen : BitVec 3 := 3

/-- The cause buffer capacity of KeyMaterialUnavailable (R247). -/
def causeCapacity : BitVec 3 := 4

/-- STATUS as the host reads it: [15:12] 0, NR, RKV, SUB, ERR from the top (R25). -/
def statusWord (s : State) : BitVec 16 :=
  0#4 ++ s.nr ++ BitVec.ofBool s.rkv ++ s.sub ++ s.err

/-- ERR <- 0, SUB <- 0: the outcome of a command that completes (R246, R259). -/
def succeed (s : State) : State := { s with err := 0, sub := 0 }

/-- ERR and SUB of an error (R255, step 4). -/
def setError (e : CmdError) (s : State) : State := { s with err := e.code, sub := e.cause }

end Sys2Proof.Machine
end

