-- ==== Sys2Proof/Machine/Ops.lean ====
section
/-! DEFINITION. The named operations every command shares: reading and writing a byte file,
`BufRead` and `BufWrite` (`00_scope.md` R11), exclusive-or of blocks (R10), the discard
(`47_system.md` R236), and raising an error (`60_exceptions.md` R255). -/

namespace Sys2Proof.Machine

/-- The form of a byte file: indices strictly rising, no byte 0x00 listed. -/
abbrev Memory.wf (m : Memory) : Prop :=
  m.Pairwise (fun x y => x.1 < y.1) ∧ ∀ c ∈ m, c.2 ≠ 0

/-- The byte at an index; an unlisted index holds 0x00. -/
def Memory.read : Memory → Nat → Byte
  | [], _ => 0
  | (k, v) :: t, a => if k = a then v else Memory.read t a

/-- The file with the byte at one index replaced; it keeps `Memory.wf`. -/
def Memory.write : Memory → Nat → Byte → Memory
  | [], a, v => if v = 0 then [] else [(a, v)]
  | (k, w) :: t, a, v =>
    if a < k then (if v = 0 then (k, w) :: t else (a, v) :: (k, w) :: t)
    else if k = a then (if v = 0 then t else (a, v) :: t)
    else (k, w) :: Memory.write t a v

/-- `BufRead(a, n)`: the bytes at `a ≤ i < a + n`, in order (R11). -/
def Memory.readBytes (m : Memory) (a n : Nat) : List Byte :=
  (List.range n).map fun i => m.read (a + i)

/-- `BufWrite(a, X)`: the bytes of `X` from index `a` upward (R11). -/
def Memory.writeBytes : Memory → Nat → List Byte → Memory
  | m, _, [] => m
  | m, a, b :: bs => Memory.writeBytes (m.write a b) (a + 1) bs

/-- `BufRead(a, 16)` as a block. -/
def Memory.readBlock (m : Memory) (a : Nat) : Block := Vector.ofFn fun i => m.read (a + i.val)

/-- `BufWrite(a, X)` of a block. -/
def Memory.writeBlock (m : Memory) (a : Nat) (x : Block) : Memory := m.writeBytes a x.toList

/-- Exclusive-or, index by index (R10). -/
@[irreducible] def xorBlock (x y : Block) : Block := Vector.ofFn fun i => x[i] ^^^ y[i]

/-- Every hidden register is cleared and the sequencer returns to IDLE (R38; R255, step 5). -/
def clearHidden (s : State) : State := { s with hidden := Hidden.idle }

/-- `discard` (R236): KEY, KLEN, MKEY, MKLEN, RK, RKV, NR, ST and the hidden registers are cleared;
IV, IVLEN, BUF, LEN, OPA, OPB, RES, ERR and SUB are not. -/
def discard (s : State) : State :=
  { s with
    key := Vector.replicate 32 0
    klen := 0
    mkey := Vector.replicate 256 0
    mklen := 0
    rk := Vector.replicate 240 0
    rkv := false
    nr := 0
    st := Vector.replicate 16 0
    hidden := Hidden.idle }

/-- Whether a command discards at its end (glossary; R257). -/
inductive CommandKind where
  /-- A command that never discards: the primitive commands, NOP, ZEROIZE, and the decoder. -/
  | primitive
  /-- CBCENC, CBCDEC, SEAL, OPEN. -/
  | topLevel
  deriving DecidableEq, Repr

/-- `raise E(s)`, the one way a command takes an error (R255): the discard of a top-level command,
then ERR and SUB, then the hidden registers. The clearing that R256 gives a command (step 2) stands
in that command, before it raises. Nothing is saved and there is no return (R259): the next command
overwrites ERR and SUB. -/
def raiseError (k : CommandKind) (e : CmdError) (s : State) : State :=
  let t := match k with
    | .primitive => s
    | .topLevel => discard s
  clearHidden (setError e t)

/-- The end of a top-level command that succeeds: ERR <- 0, SUB <- 0, discard (P-R194, P-R214). -/
def completeTop (s : State) : State := discard (succeed s)

end Sys2Proof.Machine
end

