-- ==== Sys2Proof/Machine/Operands.lean ====
section
/-! DEFINITION. Where the commands find their operands (`30_encoding.md` R91, `10_state.md` R41):
the cipher variant, the key and MAC-key bytes with their length registers, the schedule a block
function takes and its round keys, the pad length, and the fields of a container. -/

namespace Sys2Proof.Machine

/-- The three cipher variants; no other exists (`00_scope.md` R3). -/
inductive Variant where
  | aes128
  | aes192
  | aes256
  deriving DecidableEq, Repr

/-- The key length in bytes (R3). -/
def Variant.keyLength : Variant → Nat
  | .aes128 => 16
  | .aes192 => 24
  | .aes256 => 32

/-- Nr (R3). -/
def Variant.rounds : Variant → Nat
  | .aes128 => 10
  | .aes192 => 12
  | .aes256 => 14

theorem Variant.rounds_le (v : Variant) : v.rounds ≤ 14 := by cases v <;> decide

/-- The variant KLEN selects, where it is 16, 24 or 32 (R26). -/
def keyVariant (s : State) : Option Variant :=
  if s.klen = 16 then some .aes128
  else if s.klen = 24 then some .aes192
  else if s.klen = 32 then some .aes256
  else none

/-- IVLEN is exactly 16 (R27). -/
def ivLenLegal (s : State) : Bool := s.ivlen = 16

/-- MKLEN is from 1 to 256 (R28). -/
def macKeyLenLegal (s : State) : Bool := 1 ≤ s.mklen.toNat && s.mklen.toNat ≤ 256

/-- KEY[0..KLEN) (R31). -/
def keyBytes (s : State) : List Byte := s.key.toList.take s.klen.toNat

/-- MKEY[0..MKLEN) (R34). -/
def macKeyBytes (s : State) : List Byte := s.mkey.toList.take s.mklen.toNat

/-- `rk[r]`, the 16 bytes RK[16r..16r+16) (`43_key_schedule.md` R155); RK has room for 15. -/
def roundKey (rk : Vector Byte 240) (r : Fin 15) : Block :=
  Vector.ofFn fun j => rk[16 * r.val + j.val]

/-- A schedule for the rounds of a variant: exactly Nr + 1 round keys, by its type
(`44_block_engine.md` R169; `93_implementation_defined.md` U1). -/
abbrev Schedule (v : Variant) := Vector Block (v.rounds + 1)

/-- The schedule that stands in RK, for a variant. -/
def scheduleIn (v : Variant) (rk : Vector Byte 240) : Schedule v :=
  Vector.ofFn fun r => roundKey rk ⟨r.val, by have := v.rounds_le; omega⟩

/-- The variant of the schedule the block commands may use: there is one where RKV = 1, and NR is the
round count of a variant (R169, R253). In every state a run reaches RKV = 1 implies the latter
(log entry 8). -/
def heldVariant (s : State) : Option Variant :=
  if s.rkv then
    if s.nr = 10 then some .aes128
    else if s.nr = 12 then some .aes192
    else if s.nr = 14 then some .aes256
    else none
  else none

/-- `rk[r]` of the schedule the block commands may use, where it has one: r ≤ NR (R155, R173). -/
def heldRoundKey (s : State) (r : Nat) : Option Block :=
  match heldVariant s with
  | none => none
  | some v => if h : r < v.rounds + 1 then some (scheduleIn v s.rk)[r] else none

/-- LEN as a length; arithmetic on lengths is on natural numbers (R11). -/
def lenOf (s : State) : Nat := s.len.toNat

/-- The PKCS#7 pad length of a message of `n` bytes, from 1 to 16 (`45_cbc_driver.md` R185). -/
def padLen (n : Nat) : Nat := 16 - n % 16

/-- The `p` pad bytes, each of value `p` (R185). -/
def padBytes (p : Nat) : List Byte := List.replicate p (BitVec.ofNat 8 p)

/-- The pad byte of R186 is refused: it is 0 or greater than 16. -/
def padByteBad (p : Byte) : Bool := p = 0 || 16 < p.toNat

/-- A ciphertext length is refused: it is 0 or no multiple of 16 (R188). -/
def cipherLenBad (n : Nat) : Bool := n = 0 || n % 16 ≠ 0

/-- `clen` of a container of `n` bytes (`46_container_codec.md` R210). -/
def cipherLen (P : Params) (n : Nat) : Nat := n - 16 - P.macLen

end Sys2Proof.Machine
end

