-- ==== Sys2Proof/Machine/Field.lean ====
section
/-! DEFINITION. Unit U1, finite-field arithmetic: GFMUL (`40_gf_multiplier.md`). -/

namespace Sys2Proof.Machine

/-- The doubling step: multiply by x and reduce by 0x1B (R113). -/
def xtime (a : Byte) : Byte := if a.getLsbD 7 then (a <<< 1) ^^^ 0x1B#8 else a <<< 1

/-- One iteration of P-R111: accumulate with the value `a` had before its doubling. -/
def MulRegs.iterate (m : MulRegs) : MulRegs where
  a := xtime m.a
  b := m.b >>> 1
  p := if m.b.getLsbD 0 then m.p ^^^ m.a else m.p

/-- `n` iterations of P-R111. -/
def MulRegs.run : Nat → MulRegs → MulRegs
  | 0, m => m
  | n + 1, m => MulRegs.run n m.iterate

/-- `Multiply(a, b)`: shift-and-add with exactly 8 iterations (R111, R115). -/
def multiply (a b : Byte) : Byte := (MulRegs.run 8 { a := a, b := b, p := 0 }).p

/-- GFMUL (R114): RES <- Multiply(OPA, OPB); the working copies are 0 again at the end (R38). -/
def execGfmul (s : State) : Host.Outcome State Fault Refusal :=
  .next (clearHidden (succeed { s with res := multiply s.opa s.opb }))

end Sys2Proof.Machine
end

