-- ==== Sys2Proof/Machine/RowColumn.lean ====
section
/-! DEFINITION. Unit U3, the row and column transforms: SHR.F, SHR.I, MIXC.F, MIXC.I
(`42_row_column.md`). Each is a function of the old State, so the in-place hazard of R139 and R284
cannot arise. -/

namespace Sys2Proof.Machine

/-- The column a row's byte of column `c` comes from: row `r` turns left by `r` forward and right
by `r` inverse (R135). -/
def shiftSource : Direction → (r c : Nat) → Nat
  | .forward, r, c => (c + r) % 4
  | .inverse, r, c => (c + 4 - r) % 4

theorem shiftSource_lt (d : Direction) (r c : Nat) : shiftSource d r c < 4 := by
  cases d <;> exact Nat.mod_lt _ (by decide)

/-- `ShiftRows(direction, state)`: s'[r,c] = s[r, shiftSource], with s[r,c] = ST[r + 4c] (R135). -/
@[irreducible] def shiftRows (d : Direction) (x : Block) : Block :=
  Vector.ofFn fun i =>
    x[i.val % 4 + 4 * shiftSource d (i.val % 4) (i.val / 4)]'(by
      have h := shiftSource_lt d (i.val % 4) (i.val / 4)
      omega)

/-- The matrix MF, row by row (R138). -/
def mixForward : Vector Word4 4 :=
  #v[#v[0x02, 0x03, 0x01, 0x01], #v[0x01, 0x02, 0x03, 0x01],
     #v[0x01, 0x01, 0x02, 0x03], #v[0x03, 0x01, 0x01, 0x02]]

/-- The matrix MI, row by row (R138). -/
def mixInverse : Vector Word4 4 :=
  #v[#v[0x0e, 0x0b, 0x0d, 0x09], #v[0x09, 0x0e, 0x0b, 0x0d],
     #v[0x0d, 0x09, 0x0e, 0x0b], #v[0x0b, 0x0d, 0x09, 0x0e]]

/-- The matrix of a direction (R137). -/
def mixMatrix : Direction → Vector Word4 4
  | .forward => mixForward
  | .inverse => mixInverse

/-- Column `c` of the State, its byte `k` being row `k` (R13). -/
def column (x : Block) (c : Fin 4) : Word4 := Vector.ofFn fun k => x[4 * c.val + k.val]

/-- The new column: the matrix product over GF(2^8), sums being exclusive-or (R137). -/
def mixColumn (m : Vector Word4 4) (v : Word4) : Word4 :=
  Vector.ofFn fun r =>
    multiply m[r][0] v[0] ^^^ multiply m[r][1] v[1] ^^^ multiply m[r][2] v[2]
      ^^^ multiply m[r][3] v[3]

/-- `MixColumns(direction, state)`: the four columns, each on its own (R137). -/
@[irreducible] def mixColumns (d : Direction) (x : Block) : Block :=
  Vector.ofFn fun i => (mixColumn (mixMatrix d) (column x ⟨i.val / 4, by omega⟩))[i.val % 4]

/-- The effect of SHR: ST <- ShiftRows(direction, ST). -/
def shiftSt (d : Direction) (s : State) : State := succeed { s with st := shiftRows d s.st }

/-- The effect of MIXC: ST <- MixColumns(direction, ST); the multiplier's working copies are 0
again at the end (R38). -/
def mixSt (d : Direction) (s : State) : State :=
  clearHidden (succeed { s with st := mixColumns d s.st })

/-- SHR.F (R141). -/
def execShrF (s : State) : Host.Outcome State Fault Refusal := .next (shiftSt .forward s)

/-- SHR.I (R142). -/
def execShrI (s : State) : Host.Outcome State Fault Refusal := .next (shiftSt .inverse s)

/-- MIXC.F (R143). -/
def execMixcF (s : State) : Host.Outcome State Fault Refusal := .next (mixSt .forward s)

/-- MIXC.I (R144). -/
def execMixcI (s : State) : Host.Outcome State Fault Refusal := .next (mixSt .inverse s)

end Sys2Proof.Machine
end

