-- ==== Sys2Proof/Machine/KeySchedule.lean ====
section
/-! DEFINITION. Unit U4, the key schedule: KEXP (`43_key_schedule.md`). -/

namespace Sys2Proof.Machine

/-- `x^n` in GF(2^8): `n` doublings of 0x01. -/
def xPower : Nat → Byte
  | 0 => 0x01
  | n + 1 => xtime (xPower n)

/-- `Rcon[j]`, j ≥ 1: Rcon[1] = 0x01 and Rcon[j+1] = xtime(Rcon[j]) (R154). `Rcon[0]` is not defined
by the spec and never used (log entry 8). -/
def rcon (j : Nat) : Byte := xPower (j - 1)

/-- `RotWord` (R153). -/
def rotWord (w : Word4) : Word4 := #v[w[1], w[2], w[3], w[0]]

/-- `SubWord`: the forward table on each byte (R153). -/
def subWord (w : Word4) : Word4 := Vector.ofFn fun k => sbox w[k]

/-- Exclusive-or of words, byte by byte. -/
def xorWord (x y : Word4) : Word4 := Vector.ofFn fun k => x[k] ^^^ y[k]

/-- The round constant's word: only its first byte is not 0 (R154). -/
def rconWord (j : Nat) : Word4 := #v[rcon j, 0, 0, 0]

/-- Word `i` of the key, its bytes 4i to 4i+3 (R152). -/
def keyWord (key : List Byte) (i : Nat) : Word4 := Vector.ofFn fun k => key.getD (4 * i + k.val) 0

/-- Word `i` of a list of words. -/
def wordAt (ws : List Word4) (i : Nat) : Word4 := ws.getD i (Vector.replicate 4 0)

/-- P-R152: schedule word `i` from the words before it. -/
def nextWord (nk : Nat) (key : List Byte) (ws : List Word4) (i : Nat) : Word4 :=
  if i < nk then keyWord key i
  else if i % nk = 0 then
    xorWord (xorWord (subWord (rotWord (wordAt ws (i - 1)))) (rconWord (i / nk))) (wordAt ws (i - nk))
  else if nk = 8 ∧ i % nk = 4 then xorWord (subWord (wordAt ws (i - 1))) (wordAt ws (i - nk))
  else xorWord (wordAt ws (i - 1)) (wordAt ws (i - nk))

/-- The first `n` schedule words, in increasing order (R152, R157). -/
def scheduleWords (nk : Nat) (key : List Byte) : Nat → List Word4
  | 0 => []
  | n + 1 =>
    let ws := scheduleWords nk key n
    ws ++ [nextWord nk key ws n]

/-- Nk of a key (R150). -/
def keyWords (key : List Byte) : Nat := key.length / 4

/-- Nr of a key: Nk + 6 (R150). -/
def keyRounds (key : List Byte) : Nat := keyWords key + 6

/-- `ExpandKey(key)`: the Nw = 4·(Nr + 1) words as bytes of RK, and 0x00 beyond them (R151, R156). -/
@[irreducible] def expandKey (key : List Byte) : Vector Byte 240 :=
  let ws := scheduleWords (keyWords key) key (4 * (keyRounds key + 1))
  Vector.ofFn fun i => (wordAt ws (i.val / 4))[i.val % 4]

/-- RK, NR, RKV <- ExpandKey(KEY[0..KLEN)), KLEN/4 + 6, 1 (R156, P-R194). -/
def expandState (s : State) : State :=
  { s with
    rk := expandKey (keyBytes s)
    nr := BitVec.ofNat 4 (s.klen.toNat / 4 + 6)
    rkv := true }

/-- KEXP (R156). -/
def execKexp (s : State) : Host.Outcome State Fault Refusal :=
  .next (match keyVariant s with
    | none => raiseError .primitive (.keyMaterialUnavailable causeKlen) s
    | some _ => succeed (expandState s))

end Sys2Proof.Machine
end

