-- ==== Sys2Proof/Machine/BlockEngine.lean ====
section
/-! DEFINITION. Unit U5, the block cipher engine: ADDRK, ENCB, DECB (`44_block_engine.md`). -/

namespace Sys2Proof.Machine

/-- `AddRoundKey(s, k)` (R165). -/
def addRoundKey (x k : Block) : Block := xorBlock x k

/-- One full round of P-R166 with round key `k`. -/
def encRound (k x : Block) : Block :=
  addRoundKey (mixColumns .forward (shiftRows .forward (substituteState .forward x))) k

/-- The final round of P-R166: no MixColumns (R166, R293). -/
def encFinal (k x : Block) : Block :=
  addRoundKey (shiftRows .forward (substituteState .forward x)) k

/-- The round keys 1 to Nr − 1, in order. -/
def middleKeys {v : Variant} (ks : Schedule v) : List Block :=
  List.ofFn fun i : Fin (v.rounds - 1) => ks[i.val + 1]

/-- Full rounds of P-R166 with these round keys, the first one first. -/
def encRounds : List Block → Block → Block
  | [], x => x
  | k :: ks, x => encRounds ks (encRound k x)

/-- `EncryptBlock(s, rk, Nr)`, P-R166. Nr is that of the schedule's type, so the two always match
(R169). -/
@[irreducible] def encryptBlock {v : Variant} (ks : Schedule v) (x : Block) : Block :=
  encFinal ks[v.rounds] (encRounds (middleKeys ks) (addRoundKey x ks[0]))

/-- One round of P-R167 with round key `k`: the inverse MixColumns comes after the key. -/
def decRound (k x : Block) : Block :=
  mixColumns .inverse (addRoundKey (substituteState .inverse (shiftRows .inverse x)) k)

/-- The final round of P-R167. -/
def decFinal (k x : Block) : Block :=
  addRoundKey (substituteState .inverse (shiftRows .inverse x)) k

/-- Rounds of P-R167 with these round keys, the last one first. -/
def decRounds : List Block → Block → Block
  | [], x => x
  | k :: ks, x => decRound k (decRounds ks x)

/-- `DecryptBlock(s, rk, Nr)`, P-R167. -/
@[irreducible] def decryptBlock {v : Variant} (ks : Schedule v) (x : Block) : Block :=
  decFinal ks[0] (decRounds (middleKeys ks) (addRoundKey x ks[v.rounds]))

/-- ADDRK r (R173). -/
def execAddrk (r : Nat) (s : State) : Host.Outcome State Fault Refusal :=
  .next (match heldRoundKey s r with
    | none => raiseError .primitive .scheduleInvalid s
    | some k => succeed { s with st := addRoundKey s.st k })

/-- ENCB (R174); the sequencer is IDLE again at the end (R172). -/
def execEncb (s : State) : Host.Outcome State Fault Refusal :=
  .next (match heldVariant s with
    | none => raiseError .primitive .scheduleInvalid s
    | some v => clearHidden (succeed { s with st := encryptBlock (scheduleIn v s.rk) s.st }))

/-- DECB (R175); the sequencer is IDLE again at the end (R172). -/
def execDecb (s : State) : Host.Outcome State Fault Refusal :=
  .next (match heldVariant s with
    | none => raiseError .primitive .scheduleInvalid s
    | some v => clearHidden (succeed { s with st := decryptBlock (scheduleIn v s.rk) s.st }))

end Sys2Proof.Machine
end

