-- ==== Sys2Proof/Machine/Cbc.lean ====
section
/-! DEFINITION. Unit U6, the CBC driver and the PKCS#7 padding: PAD, UNPAD, CBCENC, CBCDEC
(`45_cbc_driver.md`). Each command is written for any parameters `P` and runs with
`Config.params`. -/

namespace Sys2Proof.Machine

/-- Step 1 of P-R194: BufWrite(LEN, [p] × p). LEN itself is set at the end. -/
def writePad (s : State) : State :=
  { s with buf := s.buf.writeBytes (lenOf s) (padBytes (padLen (lenOf s))) }

/-- PAD (R192). -/
def padCommand (P : Params) (s : State) : State :=
  if P.bufCap < lenOf s + padLen (lenOf s) then
    raiseError .primitive (.keyMaterialUnavailable causeCapacity) s
  else succeed { writePad s with len := BitVec.ofNat 32 (lenOf s + padLen (lenOf s)) }

/-- UNPAD (R193): BUF is not written. -/
def unpadCommand (P : Params) (s : State) : State :=
  if P.bufCap < lenOf s then raiseError .primitive (.keyMaterialUnavailable causeCapacity) s
  else if cipherLenBad (lenOf s) then raiseError .primitive .invalidCiphertextLength s
  else if padByteBad (s.buf.read (lenOf s - 1)) then raiseError .primitive .invalidPadding s
  else succeed { s with len := BitVec.ofNat 32 (lenOf s - (s.buf.read (lenOf s - 1)).toNat) }

/-- C_b of P-R194: block `b` chained and encrypted (R187), under the schedule in RK. -/
def encipheredBlock (v : Variant) (b : Nat) (s : State) : Block :=
  encryptBlock (scheduleIn v s.rk) (xorBlock (s.buf.readBlock (16 * b)) s.hidden.cv)

/-- One turn of the loop of P-R194: block `b` is stored, and is the next chaining value. -/
def cbcEncBlock (v : Variant) (b : Nat) (s : State) : State :=
  { s with
    st := encipheredBlock v b s
    buf := s.buf.writeBlock (16 * b) (encipheredBlock v b s)
    hidden := { s.hidden with cv := encipheredBlock v b s } }

/-- `n` turns of the loop of P-R194, from block `b` upward. -/
def cbcEncBlocks (v : Variant) : Nat → Nat → State → State
  | 0, _, s => s
  | n + 1, b, s => cbcEncBlocks v n (b + 1) (cbcEncBlock v b s)

/-- CV <- IV[0..16): the chaining value before block 0 (R187, R188). -/
def chainFromIv (s : State) : State := { s with hidden := { s.hidden with cv := s.iv } }

/-- The ciphertext of P-R194, before LEN is set: the schedule, the padding, the blocks. -/
def encryptPadded (v : Variant) (s : State) : State :=
  cbcEncBlocks v ((lenOf s + padLen (lenOf s)) / 16) 0 (chainFromIv (writePad (expandState s)))

/-- P-R194 from "RK, NR, RKV <- ..." to "LEN <- LEN + p"; SEAL runs the same (P-R214). -/
def cbcEncrypt (v : Variant) (s : State) : State :=
  { encryptPadded v s with len := BitVec.ofNat 32 (lenOf s + padLen (lenOf s)) }

/-- CBCENC (R194, P-R194). -/
def cbcencCommand (P : Params) (s : State) : State :=
  match keyVariant s with
  | none => raiseError .topLevel (.keyMaterialUnavailable causeKlen) s
  | some v =>
    if !ivLenLegal s then raiseError .topLevel (.keyMaterialUnavailable causeIvlen) s
    else if P.bufCap < lenOf s + padLen (lenOf s) then
      raiseError .topLevel (.keyMaterialUnavailable causeCapacity) s
    else completeTop (cbcEncrypt v s)

/-- DecryptBlock(C_b) of P-R195, before CV is added (R188), under the schedule in RK. -/
def decipheredBlock (v : Variant) (b : Nat) (s : State) : Block :=
  decryptBlock (scheduleIn v s.rk) (s.buf.readBlock (16 * b))

/-- One turn of the loop of P-R195: block `b` is saved before it is overwritten (R189). -/
def cbcDecBlock (v : Variant) (b : Nat) (s : State) : State :=
  { s with
    st := decipheredBlock v b s
    buf := s.buf.writeBlock (16 * b) (xorBlock (decipheredBlock v b s) s.hidden.cv)
    hidden := { s.hidden with
      save := s.buf.readBlock (16 * b)
      cv := s.buf.readBlock (16 * b) } }

/-- `n` turns of the loop of P-R195, from block `b` upward (in index order, R190). -/
def cbcDecBlocks (v : Variant) : Nat → Nat → State → State
  | 0, _, s => s
  | n + 1, b, s => cbcDecBlocks v n (b + 1) (cbcDecBlock v b s)

/-- The decryption of P-R195 before the padding is looked at. -/
def cbcDecrypt (v : Variant) (n : Nat) (s : State) : State :=
  cbcDecBlocks v (n / 16) 0 (chainFromIv (expandState s))

/-- What InvalidPadding leaves of BUF and LEN in CBCDEC and OPEN: BUF[0..n) <- 0x00, LEN <- 0
(R256). -/
def eraseDecrypted (n : Nat) (s : State) : State :=
  { s with buf := s.buf.writeBytes 0 (List.replicate n 0), len := 0 }

/-- `CbcDecryptInPlace(n)` and the end both its callers share (P-R195, P-R215): an error it raises,
or ERR <- 0, SUB <- 0 and the discard. -/
def cbcDecryptInPlace (v : Variant) (n : Nat) (s : State) : State :=
  if cipherLenBad n then raiseError .topLevel .invalidCiphertextLength s
  else
    let t := cbcDecrypt v n s
    if padByteBad (t.buf.read (n - 1)) then
      raiseError .topLevel .invalidPadding (eraseDecrypted n t)
    else completeTop { t with len := BitVec.ofNat 32 (n - (t.buf.read (n - 1)).toNat) }

/-- CBCDEC (R195, P-R195). -/
def cbcdecCommand (P : Params) (s : State) : State :=
  match keyVariant s with
  | none => raiseError .topLevel (.keyMaterialUnavailable causeKlen) s
  | some v =>
    if !ivLenLegal s then raiseError .topLevel (.keyMaterialUnavailable causeIvlen) s
    else if P.bufCap < lenOf s then
      raiseError .topLevel (.keyMaterialUnavailable causeCapacity) s
    else cbcDecryptInPlace v (lenOf s) s

/-- PAD (R192). -/
def execPad (s : State) : Host.Outcome State Fault Refusal := .next (padCommand Config.params s)

/-- UNPAD (R193). -/
def execUnpad (s : State) : Host.Outcome State Fault Refusal :=
  .next (unpadCommand Config.params s)

/-- CBCENC (R194). -/
def execCbcenc (s : State) : Host.Outcome State Fault Refusal :=
  .next (cbcencCommand Config.params s)

/-- CBCDEC (R195). -/
def execCbcdec (s : State) : Host.Outcome State Fault Refusal :=
  .next (cbcdecCommand Config.params s)

end Sys2Proof.Machine
end

