-- ==== Sys2Proof/Machine/Container.lean ====
section
/-! DEFINITION. Unit U7, the secure container codec: SEAL, OPEN (`46_container_codec.md`). A
container is ciphertext, IV, tag, in BUF[0..LEN) (R210). -/

namespace Sys2Proof.Machine

/-- The MAC port (`60_exceptions.md` R268): the tag of BUF[0..n) under MKEY[0..MKLEN). -/
def macRequest (P : Params) (n : Nat) (s : State) : List Byte :=
  P.mac (macKeyBytes s) (s.buf.readBytes 0 n)

/-- P-R214 after the encryption: the IV behind the ciphertext, the tag behind the IV. -/
def appendIvAndTag (P : Params) (s : State) : State :=
  let clen := lenOf s
  let t := { s with buf := s.buf.writeBlock clen s.iv }
  { t with
    buf := t.buf.writeBytes (clen + 16) (macRequest P (clen + 16) t)
    len := BitVec.ofNat 32 (clen + 16 + P.macLen) }

/-- SEAL (R214, P-R214). -/
def sealCommand (P : Params) (s : State) : State :=
  match keyVariant s with
  | none => raiseError .topLevel (.keyMaterialUnavailable causeKlen) s
  | some v =>
    if !ivLenLegal s then raiseError .topLevel (.keyMaterialUnavailable causeIvlen) s
    else if !macKeyLenLegal s then raiseError .topLevel (.keyMaterialUnavailable causeMklen) s
    else if P.bufCap < lenOf s + padLen (lenOf s) + 16 + P.macLen then
      raiseError .topLevel (.keyMaterialUnavailable causeCapacity) s
    else completeTop (appendIvAndTag P (cbcEncrypt v s))

/-- TAGX <- Mac(MKEY[0..MKLEN), BufRead(0, clen + 16)) (P-R215). -/
def recomputeTag (P : Params) (clen : Nat) (s : State) : State :=
  { s with hidden := { s.hidden with tagx := Memory.writeBytes [] 0 (macRequest P (clen + 16) s) } }

/-- The tags match: every one of the MacLen bytes is equal (R213). -/
def tagMatches (P : Params) (clen : Nat) (s : State) : Bool :=
  s.hidden.tagx.readBytes 0 P.macLen = s.buf.readBytes (clen + 16) P.macLen

/-- IV[0..16) <- BufRead(clen, 16), IVLEN <- 16 (P-R215). -/
def loadContainerIv (clen : Nat) (s : State) : State :=
  { s with iv := s.buf.readBlock clen, ivlen := 16 }

/-- OPEN (R215, P-R215). -/
def openCommand (P : Params) (s : State) : State :=
  match keyVariant s with
  | none => raiseError .topLevel (.keyMaterialUnavailable causeKlen) s
  | some v =>
    if !macKeyLenLegal s then raiseError .topLevel (.keyMaterialUnavailable causeMklen) s
    else if P.bufCap < lenOf s then
      raiseError .topLevel (.keyMaterialUnavailable causeCapacity) s
    else if lenOf s < 16 + P.macLen then raiseError .topLevel .invalidCiphertextLength s
    else
      let clen := cipherLen P (lenOf s)
      let t := recomputeTag P clen s
      if !tagMatches P clen t then raiseError .topLevel .integrityError t
      else cbcDecryptInPlace v clen (loadContainerIv clen t)

/-- SEAL (R214). -/
def execSeal (s : State) : Host.Outcome State Fault Refusal := .next (sealCommand Config.params s)

/-- OPEN (R215). -/
def execOpen (s : State) : Host.Outcome State Fault Refusal := .next (openCommand Config.params s)

end Sys2Proof.Machine
end

