-- ==== Sys2Proof/Machine/System.lean ====
section
/-! DEFINITION. The system commands: NOP, ZEROIZE (`47_system.md`). -/

namespace Sys2Proof.Machine

/-- The reset state of CORE, whatever the host still has to do or has read (R39, R280). -/
def resetCore (s : State) : State :=
  { State.reset with pending := s.pending, readData := s.readData }

/-- NOP (R230): ERR <- 0, SUB <- 0. -/
def execNop (s : State) : Host.Outcome State Fault Refusal := .next (succeed s)

/-- ZEROIZE (R231): every register of R20 gets its reset value. -/
def execZeroize (s : State) : Host.Outcome State Fault Refusal := .next (succeed (resetCore s))

end Sys2Proof.Machine
end

