-- ==== Sys2Proof/Machine/Dispatch.lean ====
section
/-! DEFINITION. One arm per command (`30_encoding.md` R93). -/

namespace Sys2Proof.Machine

/-- The effect of a command. -/
def exec (i : Instr) (s : State) : Host.Outcome State Fault Refusal :=
  match i with
  | .nop => Sys2Proof.Machine.execNop s
  | .zeroize => Sys2Proof.Machine.execZeroize s
  | .gfmul => Sys2Proof.Machine.execGfmul s
  | .subbF => Sys2Proof.Machine.execSubbF s
  | .subbI => Sys2Proof.Machine.execSubbI s
  | .subsF => Sys2Proof.Machine.execSubsF s
  | .subsI => Sys2Proof.Machine.execSubsI s
  | .shrF => Sys2Proof.Machine.execShrF s
  | .shrI => Sys2Proof.Machine.execShrI s
  | .mixcF => Sys2Proof.Machine.execMixcF s
  | .mixcI => Sys2Proof.Machine.execMixcI s
  | .addrk r => Sys2Proof.Machine.execAddrk r s
  | .kexp => Sys2Proof.Machine.execKexp s
  | .encb => Sys2Proof.Machine.execEncb s
  | .decb => Sys2Proof.Machine.execDecb s
  | .pad => Sys2Proof.Machine.execPad s
  | .unpad => Sys2Proof.Machine.execUnpad s
  | .cbcenc => Sys2Proof.Machine.execCbcenc s
  | .cbcdec => Sys2Proof.Machine.execCbcdec s
  | .sealContainer => Sys2Proof.Machine.execSeal s
  | .openContainer => Sys2Proof.Machine.execOpen s

end Sys2Proof.Machine
end

