-- ==== Sys2Proof/Machine/HostPort.lean ====
section
/-! DEFINITION. The host interface (`20_memory.md` R60 to R66, `47_system.md` R232, R233): the
register map, HostRead, HostWrite, a write to CMD, and the reset input. -/

namespace Sys2Proof.Machine

/-- What a register number names (R65). -/
inductive Reg where
  | cmd
  | status
  | opa
  | opb
  | res
  | klen
  | ivlen
  | mklen
  | len
  | cap
  | maclen
  | st (i : Fin 16)
  | iv (i : Fin 16)
  | key (i : Fin 32)
  | rk (i : Fin 240)
  | mkey (i : Fin 256)
  | buf (i : Nat)
  | unmapped
  deriving DecidableEq, Repr

/-- The register map of R65; every other number is unmapped (R63). -/
def regAt (P : Params) (n : Nat) : Reg :=
  if n = 0x0 then .cmd
  else if n = 0x1 then .status
  else if n = 0x2 then .opa
  else if n = 0x3 then .opb
  else if n = 0x4 then .res
  else if n = 0x5 then .klen
  else if n = 0x6 then .ivlen
  else if n = 0x7 then .mklen
  else if n = 0x8 then .len
  else if n = 0x9 then .cap
  else if n = 0xA then .maclen
  else if h : 0x10 ≤ n ∧ n ≤ 0x1F then .st ⟨n - 0x10, by omega⟩
  else if h : 0x20 ≤ n ∧ n ≤ 0x2F then .iv ⟨n - 0x20, by omega⟩
  else if h : 0x40 ≤ n ∧ n ≤ 0x5F then .key ⟨n - 0x40, by omega⟩
  else if h : 0x100 ≤ n ∧ n ≤ 0x1EF then .rk ⟨n - 0x100, by omega⟩
  else if h : 0x200 ≤ n ∧ n ≤ 0x2FF then .mkey ⟨n - 0x200, by omega⟩
  else if 0x10000 ≤ n ∧ n - 0x10000 < P.bufCap then .buf (n - 0x10000)
  else .unmapped

/-- The value of a register, zero-extended to 32 bits (R61); CMD is write only and an unmapped
number reads 0 (R24, R63). -/
def regValue (P : Params) (r : Reg) (s : State) : Word32 :=
  match r with
  | .cmd => 0
  | .status => (statusWord s).zeroExtend 32
  | .opa => s.opa.zeroExtend 32
  | .opb => s.opb.zeroExtend 32
  | .res => s.res.zeroExtend 32
  | .klen => s.klen.zeroExtend 32
  | .ivlen => s.ivlen.zeroExtend 32
  | .mklen => s.mklen.zeroExtend 32
  | .len => s.len
  | .cap => BitVec.ofNat 32 P.bufCap
  | .maclen => (BitVec.ofNat 16 P.macLen).zeroExtend 32
  | .st i => s.st[i].zeroExtend 32
  | .iv i => s.iv[i].zeroExtend 32
  | .key i => s.key[i].zeroExtend 32
  | .rk i => s.rk[i].zeroExtend 32
  | .mkey i => s.mkey[i].zeroExtend 32
  | .buf i => (s.buf.read i).zeroExtend 32
  | .unmapped => 0

/-- The register with the low bits of `v`, as many as it is wide (R62). A read-only register, an
unmapped number and CMD hold nothing that a write changes. -/
def setReg (r : Reg) (v : Word32) (s : State) : State :=
  match r with
  | .opa => { s with opa := v.truncate 8 }
  | .opb => { s with opb := v.truncate 8 }
  | .klen => { s with klen := v.truncate 8 }
  | .ivlen => { s with ivlen := v.truncate 8 }
  | .mklen => { s with mklen := v.truncate 16 }
  | .len => { s with len := v }
  | .st i => { s with st := s.st.set i (v.truncate 8) }
  | .iv i => { s with iv := s.iv.set i (v.truncate 8) }
  | .key i => { s with key := s.key.set i (v.truncate 8) }
  | .mkey i => { s with mkey := s.mkey.set i (v.truncate 8) }
  | .buf i => { s with buf := s.buf.write i (v.truncate 8) }
  | .cmd | .status | .res | .cap | .maclen | .rk _ | .unmapped => s

/-- `HostRead(n)` (R61, R232): it changes no register. -/
def hostRead (P : Params) (n : Word32) (s : State) : Word32 := regValue P (regAt P n.toNat) s

/-- `HostWrite(n, v)` for a number other than CMD's (R62, R233). -/
def hostWrite (P : Params) (n v : Word32) (s : State) : State := setReg (regAt P n.toNat) v s

/-- A write of `v` to CMD: the command `v[15:0]` is executed (R24, R62), and an illegal word raises
IllegalCommand (R96, R252). -/
def writeCmd (v : Word32) (s : State) : Host.Outcome State Fault Refusal :=
  match decode (cmdWordOf v) with
  | .ok i => exec i s
  | .error _ => .next (raiseError .primitive .illegalCommand s)

/-- One thing the outside world does (R61, R62, R280). The value of a read goes to the host. -/
def hostEvent (e : HostEvent) (s : State) : Host.Outcome State Fault Refusal :=
  match e with
  | .read n => .next { s with readData := s.readData ++ [hostRead Config.params n s] }
  | .write n v => if n = 0 then writeCmd v s else .next (hostWrite Config.params n v s)
  | .reset => .next (resetCore s)

/-- The next event is taken, and CORE is between commands again when it has been served (R64); with
none waiting CORE is idle and holds its registers (R267). -/
def serveNext (s : State) : Host.Outcome State Fault Refusal :=
  match s.pending with
  | [] => .next s
  | e :: rest => hostEvent e { s with pending := rest }

/-- The write to CMD that carries the bits `w` of an opcode-table row of `nbits` bits. -/
def tableWordEvent (nbits w : Nat) : HostEvent :=
  .write 0 (BitVec.ofNat 32 (w % 2 ^ nbits % 2 ^ 16))

end Sys2Proof.Machine
end

