-- ==== Sys2Proof/Machine/Step.lean ====
section
/-! DEFINITION. One step of CORE: one access of the host, or one pulse on the reset input, from
beginning to end (`20_memory.md` R64, R73). -/

namespace Sys2Proof.Machine

/-- One step. CORE fetches nothing (R22): what it does next is the host's next access. -/
def step (s : State) : Host.Outcome State Fault Refusal := serveNext s

/-- `s` with a write of the table word to CMD as the host's very next access. -/
def State.withFetchWord (s : State) (nbits w : Nat) : State :=
  { s with pending := tableWordEvent nbits w :: s.pending }

end Sys2Proof.Machine
end

