-- ==== Sys2Proof/Machine/Script.lean ====
section
/-! DEFINITION. The host-script notation and its pseudo-commands (`30_encoding.md` R98, R99): each
stands for a list of host accesses, in order. -/

namespace Sys2Proof.Machine

/-- `WR base[i], byte_i` for each byte in order, from register number `base` upward. -/
def writeFile (base : Nat) (bytes : List Byte) : List HostEvent :=
  (List.range bytes.length).map fun i =>
    .write (BitVec.ofNat 32 (base + i)) ((bytes.getD i 0).zeroExtend 32)

/-- The bytes of a file, then its length register. -/
def loadFile (base lenReg : Nat) (bytes : List Byte) : List HostEvent :=
  writeFile base bytes ++ [.write (BitVec.ofNat 32 lenReg) (BitVec.ofNat 32 bytes.length)]

/-- LDKEY: KEY, then KLEN (R99). -/
def ldKey (bytes : List Byte) : List HostEvent := loadFile 0x40 0x5 bytes

/-- LDIV: IV, then IVLEN (R99). -/
def ldIv (bytes : List Byte) : List HostEvent := loadFile 0x20 0x6 bytes

/-- LDMKEY: MKEY, then MKLEN (R99). -/
def ldMkey (bytes : List Byte) : List HostEvent := loadFile 0x200 0x7 bytes

/-- LDBUF: BUF, then LEN (R99). -/
def ldBuf (bytes : List Byte) : List HostEvent := loadFile 0x10000 0x8 bytes

/-- LDST: the 16 bytes of ST (R99). -/
def ldSt (x : Block) : List HostEvent := writeFile 0x10 x.toList

/-- A mnemonic: the write of its word to CMD (R98). -/
def issue (i : Instr) : HostEvent := .write 0 ((encode i).zeroExtend 32)

end Sys2Proof.Machine
end

