-- ==== Sys2Proof/Machine/Sequencer.lean ====
section
/-! DEFINITION. The micro-steps of the round and block sequencer (`44_block_engine.md` R170 to R172,
`45_cbc_driver.md` R196), over the same state. The host cannot observe them (R64); the commands of
`BlockEngine.lean` and `Cbc.lean` are the blocks P-R166, P-R167, P-R194 and P-R195, and running the
phases gives the same results. -/

namespace Sys2Proof.Machine

/-- Whether the sequencer runs one block (ENCB, DECB) or the block loop over `n` blocks. -/
inductive SeqMode where
  | single
  | chain (n : Nat)
  deriving DecidableEq, Repr

/-- The phase that follows the last phase of a block: IDLE, or the store phase of the loop. -/
def afterBlock (m : SeqMode) (store : Phase) : Phase :=
  match m with
  | .single => .idle
  | .chain _ => store

/-- The phase that follows a store phase: the load of the next block, or IDLE after the last. -/
def afterStore (m : SeqMode) (bi : BitVec 28) (load : Phase) : Phase :=
  match m with
  | .single => .idle
  | .chain n => if bi.toNat < n then load else .idle

/-- One micro-step of the phase the sequencer is in (R170, R171, R196). A phase that adds a round key
makes no step where the schedule has none of that index (R169): it is never indexed beyond its
end. -/
def microStep (m : SeqMode) (s : State) : Option State :=
  let h := s.hidden
  match h.phase with
  | .idle => some s
  | .eInit => (heldRoundKey s 0).map fun k =>
    { s with
      st := addRoundKey s.st k
      hidden := { h with round := 1, phase := .eRound } }
  | .eRound => (heldRoundKey s h.round.toNat).map fun k =>
    { s with
      st := encRound k s.st
      hidden := { h with
        round := h.round + 1
        phase := if (h.round + 1).toNat ≤ s.nr.toNat - 1 then .eRound else .eFinal } }
  | .eFinal => (heldRoundKey s s.nr.toNat).map fun k =>
    { s with
      st := encFinal k s.st
      hidden := { h with round := 0, phase := afterBlock m .cStore } }
  | .dInit => (heldRoundKey s s.nr.toNat).map fun k =>
    { s with
      st := addRoundKey s.st k
      hidden := { h with round := s.nr - 1, phase := .dRound } }
  | .dRound => (heldRoundKey s h.round.toNat).map fun k =>
    { s with
      st := decRound k s.st
      hidden := { h with
        round := h.round - 1
        phase := if 1 ≤ (h.round - 1).toNat then .dRound else .dFinal } }
  | .dFinal => (heldRoundKey s 0).map fun k =>
    { s with
      st := decFinal k s.st
      hidden := { h with phase := afterBlock m .cStoreX } }
  | .cLoadX => some
    { s with
      st := xorBlock (s.buf.readBlock (16 * h.blockIx.toNat)) h.cv
      hidden := { h with phase := .eInit } }
  | .cStore => some
    { s with
      buf := s.buf.writeBlock (16 * h.blockIx.toNat) s.st
      hidden := { h with
        cv := s.st
        blockIx := h.blockIx + 1
        phase := afterStore m (h.blockIx + 1) .cLoadX } }
  | .cSave => some
    { s with
      st := s.buf.readBlock (16 * h.blockIx.toNat)
      hidden := { h with
        save := s.buf.readBlock (16 * h.blockIx.toNat)
        phase := .dInit } }
  | .cStoreX => some
    { s with
      buf := s.buf.writeBlock (16 * h.blockIx.toNat) (xorBlock s.st h.cv)
      hidden := { h with
        cv := h.save
        blockIx := h.blockIx + 1
        phase := afterStore m (h.blockIx + 1) .cSave } }

/-- `n` micro-steps. -/
def microSteps (m : SeqMode) : Nat → State → Option State
  | 0, s => some s
  | n + 1, s => (microStep m s).bind (microSteps m n)

/-- The sequencer is set off on a phase, at round 0 and block 0. -/
def startSequencer (p : Phase) (s : State) : State :=
  { s with hidden := { s.hidden with phase := p, round := 0, blockIx := 0 } }

end Sys2Proof.Machine
end

