-- ==== Sys2Proof/Safety.lean ====
section
/-! DEFINITION. What a safe state of CORE is, in the terms claims use: the facts the spec states of
every state the host can observe. -/

namespace Sys2Proof.Machine

/-- A byte file lies inside its first `n` indices (`20_memory.md` R71). -/
def Memory.Inside (n : Nat) (m : Memory) : Prop := ∀ c ∈ m, c.1 < n

/-- RK holds the complete schedule of a key of 4·(NR − 6) bytes, and zeros beyond it
(`10_state.md` R23, R33). -/
def ScheduleHeld (s : State) : Prop :=
  ∃ (v : Variant) (key : List Byte),
    key.length = v.keyLength ∧ s.nr.toNat = v.rounds ∧ s.rk = expandKey key

/-- The invariant of the states between commands. -/
structure Inv (s : State) : Prop where
  /-- BUF is in canonical form. -/
  bufForm : s.buf.wf
  /-- The engine and the host never write BUF at or beyond BUF_CAP (R71). -/
  bufInside : s.buf.Inside Config.params.bufCap
  /-- Every hidden register is 0 and the sequencer is IDLE (R38). -/
  hiddenIdle : s.hidden = Hidden.idle
  /-- RKV = 1 means RK holds a complete schedule for NR rounds (R23). -/
  valid : s.rkv = true → ScheduleHeld s
  /-- NR is 0 when RKV = 0 (R25), and RK is then clear (R33, R236). -/
  invalid : s.rkv = false → s.nr = 0 ∧ s.rk = Vector.replicate 240 0
  /-- ERR is one of the codes CORE produces (R246): never 5, never 8 to 15. -/
  errCode : s.err.toNat ≤ 7 ∧ s.err ≠ 5
  /-- SUB refines ERR = 1, by 1 to 4, and is 0 with every other ERR (R25, R247). -/
  subCause : if s.err = 1 then 1 ≤ s.sub.toNat ∧ s.sub.toNat ≤ 4 else s.sub = 0

end Sys2Proof.Machine
end

