-- ==== Sys2Proof/Certificates/Slice0/Obligations.lean ====
section
/-! DEFINITION. What is claimed of CORE, for the provers: one `Obligations.<Name>` for each
statement, and under `Sys2Proof.Claims` the tables and functions the statements are written with,
transcribed from the spec apart from the model's own definitions. -/

namespace Sys2Proof.Claims

open Sys2Proof.Machine

/-! ## Encoding -/

/-- A row of the opcode table: its match, its mask, and the command of a word of the row (R93). -/
structure CommandRow where
  word : CmdWord
  mask : CmdWord
  command : CmdWord → Instr

/-- A row without an immediate. -/
def plainRow (w : CmdWord) (i : Instr) : CommandRow := ⟨w, 0xFFFF#16, fun _ => i⟩

/-- The rows of R93. -/
def commandTable : List CommandRow := [
  plainRow 0x0000#16 .nop,
  plainRow 0x0001#16 .zeroize,
  plainRow 0x0010#16 .gfmul,
  plainRow 0x0020#16 .subbF,
  plainRow 0x0021#16 .subbI,
  plainRow 0x0022#16 .subsF,
  plainRow 0x0023#16 .subsI,
  plainRow 0x0030#16 .shrF,
  plainRow 0x0031#16 .shrI,
  plainRow 0x0032#16 .mixcF,
  plainRow 0x0033#16 .mixcI,
  ⟨0x0034#16, 0xF0FF#16, fun w => .addrk (w.toNat / 256 % 16)⟩,
  plainRow 0x0040#16 .kexp,
  plainRow 0x0050#16 .encb,
  plainRow 0x0051#16 .decb,
  plainRow 0x0060#16 .pad,
  plainRow 0x0061#16 .unpad,
  plainRow 0x0062#16 .cbcenc,
  plainRow 0x0063#16 .cbcdec,
  plainRow 0x0070#16 .sealContainer,
  plainRow 0x0071#16 .openContainer]

/-- The 20 opcodes of R93 other than ADDRK's. -/
def plainOpcodes : List Nat :=
  [0x00, 0x01, 0x10, 0x20, 0x21, 0x22, 0x23, 0x30, 0x31, 0x32, 0x33, 0x40, 0x50, 0x51, 0x60, 0x61,
   0x62, 0x63, 0x70, 0x71]

/-- The 36 legal words (R95). -/
def legalWords : List CmdWord :=
  plainOpcodes.map (BitVec.ofNat 16) ++ (List.range 16).map fun r => BitVec.ofNat 16 (0x34 + 256 * r)

/-! ## The register map (R65), by number -/

/-- The numbers the map gives no register (R63, R65). -/
abbrev Unmapped (n : Nat) : Prop :=
  (0x0B ≤ n ∧ n ≤ 0x0F) ∨ (0x30 ≤ n ∧ n ≤ 0x3F) ∨ (0x60 ≤ n ∧ n ≤ 0xFF) ∨
    (0x1F0 ≤ n ∧ n ≤ 0x1FF) ∨ (0x300 ≤ n ∧ n ≤ 0xFFFF) ∨ 0x10000 + Config.params.bufCap ≤ n

/-- The numbers of the read-only registers: STATUS, RES, CAP, MACLEN, RK (R62, R65). -/
abbrev ReadOnly (n : Nat) : Prop := n = 1 ∨ n = 4 ∨ n = 9 ∨ n = 10 ∨ (0x100 ≤ n ∧ n ≤ 0x1EF)

/-! ## The field and the tables -/

/-- The polynomial over GF(2) of a byte: bit i is the coefficient of x^i (R110). -/
noncomputable def toPoly (a : Byte) : Polynomial (ZMod 2) :=
  ∑ i : Fin 8, if a.getLsbD i then Polynomial.X ^ i.val else 0

/-- m(x) = x^8 + x^4 + x^3 + x + 1, that is 0x11B (R110). -/
noncomputable def modulus : Polynomial (ZMod 2) :=
  Polynomial.X ^ 8 + Polynomial.X ^ 4 + Polynomial.X ^ 3 + Polynomial.X + 1

/-- `xtime` by its two cases (R113). -/
def double (a : Byte) : Byte := if a.toNat < 128 then a <<< 1 else (a <<< 1) ^^^ 0x1B#8

/-- The affine map of the S-box (R123). -/
def affine (b : Byte) : Byte :=
  b ^^^ b.rotateLeft 1 ^^^ b.rotateLeft 2 ^^^ b.rotateLeft 3 ^^^ b.rotateLeft 4 ^^^ 0x63#8

/-- The source-index table F of R136. -/
def indexF : List Nat := [0, 5, 10, 15, 4, 9, 14, 3, 8, 13, 2, 7, 12, 1, 6, 11]

/-- The source-index table G of R136. -/
def indexG : List Nat := [0, 13, 10, 7, 4, 1, 14, 11, 8, 5, 2, 15, 12, 9, 6, 3]

/-- Entry `k` of row `r` of a matrix. -/
def entry (rows : List (List Byte)) (r k : Nat) : Byte := (rows.getD r []).getD k 0

/-- MF (R138). -/
def matrixF : Nat → Nat → Byte := entry [
  [0x02#8, 0x03#8, 0x01#8, 0x01#8],
  [0x01#8, 0x02#8, 0x03#8, 0x01#8],
  [0x01#8, 0x01#8, 0x02#8, 0x03#8],
  [0x03#8, 0x01#8, 0x01#8, 0x02#8]]

/-- MI (R138). -/
def matrixI : Nat → Nat → Byte := entry [
  [0x0e#8, 0x0b#8, 0x0d#8, 0x09#8],
  [0x09#8, 0x0e#8, 0x0b#8, 0x0d#8],
  [0x0d#8, 0x09#8, 0x0e#8, 0x0b#8],
  [0x0b#8, 0x0d#8, 0x09#8, 0x0e#8]]

/-- Byte `i` of a block, by a number. -/
def byteOf (x : Block) (i : Nat) : Byte := x.toList.getD i 0

/-- The matrix product for byte 4c + r of the State (R137). -/
def mixByte (m : Nat → Nat → Byte) (x : Block) (c r : Nat) : Byte :=
  multiply (m r 0) (byteOf x (4 * c)) ^^^ multiply (m r 1) (byteOf x (4 * c + 1)) ^^^
    multiply (m r 2) (byteOf x (4 * c + 2)) ^^^ multiply (m r 3) (byteOf x (4 * c + 3))

/-- Rcon[j] by its printed values, j = 1 to 14 (R154). -/
def rconTable (j : Nat) : Byte :=
  [0x01, 0x02, 0x04, 0x08, 0x10, 0x20, 0x40, 0x80, 0x1b, 0x36, 0x6c, 0xd8, 0xab, 0x4d].getD (j - 1) 0

/-- `W[i][k]`, byte RK[4i + k] (R151). -/
def wordByte (rk : Vector Byte 240) (i k : Nat) : Byte := rk.toList.getD (4 * i + k) 0

/-- The recurrence P-R152 as a property of the schedule bytes, for a key of 4·nk bytes. -/
def ScheduleOf (key : List Byte) (nk : Nat) (rk : Vector Byte 240) : Prop :=
  (∀ i k, i < nk → k < 4 → wordByte rk i k = key.getD (4 * i + k) 0) ∧
  (∀ i k, nk ≤ i → i < 4 * (nk + 7) → k < 4 →
    wordByte rk i k =
      (if i % nk = 0 then
        sbox (wordByte rk (i - 1) ((k + 1) % 4)) ^^^ (if k = 0 then rconTable (i / nk) else 0)
      else if nk = 8 ∧ i % nk = 4 then sbox (wordByte rk (i - 1) k)
      else wordByte rk (i - 1) k) ^^^ wordByte rk (i - nk) k) ∧
  (∀ j, 16 * (nk + 7) ≤ j → j < 240 → rk.toList.getD j 0 = 0)

/-! ## Running several commands -/

/-- Commands one after the other. -/
def execAll : List Instr → State → Host.Outcome State Fault Refusal
  | [], s => .next s
  | i :: is, s =>
    match exec i s with
    | .next t => execAll is t
    | .fault f => .fault f
    | .refused r => .refused r

/-- Round `r` of EncryptBlock with the primitive commands (R166). -/
def encryptRoundScript (r : Nat) : List Instr := [.subsF, .shrF, .mixcF, .addrk r]

/-- EncryptBlock with the primitive commands (R166, R172). -/
def encryptScript (nr : Nat) : List Instr :=
  [Instr.addrk 0] ++ (List.range' 1 (nr - 1)).flatMap encryptRoundScript ++
    [Instr.subsF, Instr.shrF, Instr.addrk nr]

/-- Round `r` of DecryptBlock with the primitive commands (R167). -/
def decryptRoundScript (r : Nat) : List Instr := [.shrI, .subsI, .addrk r, .mixcI]

/-- DecryptBlock with the primitive commands (R167, R172). -/
def decryptScript (nr : Nat) : List Instr :=
  [Instr.addrk nr] ++ (List.range' 1 (nr - 1)).reverse.flatMap decryptRoundScript ++
    [Instr.shrI, Instr.subsI, Instr.addrk 0]

/-! ## Lengths, and what a command may meet -/

/-- KLEN is legal (R26). -/
abbrev KeyOk (s : State) : Prop := s.klen.toNat = 16 ∨ s.klen.toNat = 24 ∨ s.klen.toNat = 32

/-- MKLEN is legal (R28). -/
abbrev MacKeyOk (s : State) : Prop := 1 ≤ s.mklen.toNat ∧ s.mklen.toNat ≤ 256

/-- A schedule is valid, for one of the three round counts (R23, R25). -/
abbrev ScheduleOk (s : State) : Prop :=
  s.rkv = true ∧ (s.nr.toNat = 10 ∨ s.nr.toNat = 12 ∨ s.nr.toNat = 14)

/-- LEN + p (R185). -/
def paddedLen (s : State) : Nat := s.len.toNat + (16 - s.len.toNat % 16)

/-- Byte `a` of the padded message (R185). -/
def paddedByte (s : State) (a : Nat) : Byte :=
  if a < s.len.toNat then s.buf.read a else BitVec.ofNat 8 (16 - s.len.toNat % 16)

/-- The variant KLEN selects (R3); what it is for an illegal KLEN no statement uses. -/
def variantOf (s : State) : Variant :=
  if s.klen.toNat = 16 then .aes128 else if s.klen.toNat = 24 then .aes192 else .aes256

/-- The schedule of the key now in KEY (R187, R188). -/
def scheduleOf (s : State) : Schedule (variantOf s) :=
  scheduleIn (variantOf s) (expandKey (keyBytes s))

/-- The block at index 16·b of a function from indices to bytes. -/
def blockOf (f : Nat → Byte) (b : Nat) : Block := Vector.ofFn fun i => f (16 * b + i.val)

/-- C_{b−1} of R187 and R188: the IV before block 0, else the block before. -/
def chainBefore (iv : Block) (f : Nat → Byte) (b : Nat) : Block :=
  if b = 0 then iv else blockOf f (b - 1)

/-- P_b of R188, from the ciphertext as it stood before the command (R190). -/
def recoveredBlock (s : State) (iv : Block) (b : Nat) : Block :=
  xorBlock (decryptBlock (scheduleOf s) (blockOf s.buf.read b))
    (chainBefore iv s.buf.read b)

/-- Byte `a` of the recovered padded message. -/
def recoveredByte (s : State) (iv : Block) (a : Nat) : Byte :=
  byteOf (recoveredBlock s iv (a / 16)) (a % 16)

/-- The pad byte of a recovered message of `n` bytes is refused (R186, R249). -/
abbrev PadBad (s : State) (iv : Block) (n : Nat) : Prop :=
  (recoveredByte s iv (n - 1)).toNat = 0 ∨ 16 < (recoveredByte s iv (n - 1)).toNat

/-- The stored tag equals the recomputed one, for a container whose ciphertext has `clen` bytes
(R212, R213). -/
abbrev TagOk (s : State) (clen : Nat) : Prop :=
  Config.params.mac (s.mkey.toList.take s.mklen.toNat) (s.buf.readBytes 0 (clen + 16)) =
    s.buf.readBytes (clen + 16) Config.params.macLen

/-- `clen` (R210). -/
def clenOf (s : State) : Nat := s.len.toNat - 16 - Config.params.macLen

/-- The IV a container carries (R210). -/
def containerIv (s : State) : Block := Vector.ofFn fun i => s.buf.read (clenOf s + i.val)

/-- The discard of R236, written out. -/
def wiped (s : State) : State :=
  { s with
    key := Vector.replicate 32 0
    klen := 0
    mkey := Vector.replicate 256 0
    mklen := 0
    rk := Vector.replicate 240 0
    rkv := false
    nr := 0
    st := Vector.replicate 16 0
    hidden := Hidden.idle }

/-- The four top-level commands (glossary). -/
def topLevel : List Instr := [.cbcenc, .cbcdec, .sealContainer, .openContainer]

/-- The table of R254: ERR and SUB of the first error whose condition holds, or 0, 0. -/
def firstError (i : Instr) (s : State) : Nat × Nat :=
  match i with
  | .kexp => if ¬KeyOk s then (1, 1) else (0, 0)
  | .addrk r => if s.rkv = false ∨ s.nr.toNat < r then (7, 0) else (0, 0)
  | .encb | .decb => if s.rkv = false then (7, 0) else (0, 0)
  | .pad => if Config.params.bufCap < paddedLen s then (1, 4) else (0, 0)
  | .unpad =>
    if Config.params.bufCap < s.len.toNat then (1, 4)
    else if s.len.toNat = 0 ∨ s.len.toNat % 16 ≠ 0 then (2, 0)
    else if (s.buf.read (s.len.toNat - 1)).toNat = 0 ∨ 16 < (s.buf.read (s.len.toNat - 1)).toNat
    then (3, 0) else (0, 0)
  | .cbcenc =>
    if ¬KeyOk s then (1, 1)
    else if s.ivlen.toNat ≠ 16 then (1, 2)
    else if Config.params.bufCap < paddedLen s then (1, 4) else (0, 0)
  | .cbcdec =>
    if ¬KeyOk s then (1, 1)
    else if s.ivlen.toNat ≠ 16 then (1, 2)
    else if Config.params.bufCap < s.len.toNat then (1, 4)
    else if s.len.toNat = 0 ∨ s.len.toNat % 16 ≠ 0 then (2, 0)
    else if PadBad s s.iv s.len.toNat then (3, 0) else (0, 0)
  | .sealContainer =>
    if ¬KeyOk s then (1, 1)
    else if s.ivlen.toNat ≠ 16 then (1, 2)
    else if ¬MacKeyOk s then (1, 3)
    else if Config.params.bufCap < paddedLen s + 16 + Config.params.macLen then (1, 4) else (0, 0)
  | .openContainer =>
    if ¬KeyOk s then (1, 1)
    else if ¬MacKeyOk s then (1, 3)
    else if Config.params.bufCap < s.len.toNat then (1, 4)
    else if s.len.toNat < 16 + Config.params.macLen then (2, 0)
    else if ¬TagOk s (clenOf s) then (4, 0)
    else if clenOf s = 0 ∨ clenOf s % 16 ≠ 0 then (2, 0)
    else if PadBad s (containerIv s) (clenOf s) then (3, 0) else (0, 0)
  | .nop | .zeroize | .gfmul | .subbF | .subbI | .subsF | .subsI | .shrF | .shrI | .mixcF
  | .mixcI => (0, 0)

/-- The bytes of BUF a command may store to: first index and first index beyond (R192 to R195,
R214, R215). -/
def footprint (i : Instr) (s : State) : Nat × Nat :=
  match i with
  | .pad => (s.len.toNat, paddedLen s)
  | .cbcenc => (0, paddedLen s)
  | .cbcdec => (0, s.len.toNat)
  | .sealContainer => (0, paddedLen s + 16 + Config.params.macLen)
  | .openContainer => (0, clenOf s)
  | .zeroize => (0, Config.params.bufCap)
  | .nop | .gfmul | .subbF | .subbI | .subsF | .subsI | .shrF | .shrI | .mixcF | .mixcI | .addrk _
  | .kexp | .encb | .decb | .unpad => (0, 0)

/-- Two states hold the same message, key and IV, whatever else they hold. -/
def SameMessage (s t : State) : Prop :=
  s.len = t.len ∧ (∀ a, a < s.len.toNat → s.buf.read a = t.buf.read a) ∧
  s.klen = t.klen ∧ keyBytes s = keyBytes t ∧ s.ivlen = t.ivlen ∧ s.iv = t.iv

/-- Two states hold the same message, key, IV and MAC key, whatever else they hold. -/
def SameInputs (s t : State) : Prop :=
  SameMessage s t ∧ s.mklen = t.mklen ∧ macKeyBytes s = macKeyBytes t

/-- The value a host writes to CMD carries none of the 36 legal words (R95). -/
def IllegalValue (v : Word32) : Prop := BitVec.ofNat 16 (v.toNat % 65536) ∉ legalWords

end Sys2Proof.Claims

open Sys2Proof Sys2Proof.Machine Sys2Proof.Claims

/-! ## Encoding and the step -/

/-- R93, R97: decoding the word of a well-formed command gives the command back, with ADDRK's index
at every value; so does the reading of an opcode-table word. -/
def Obligations.DecodeInvertsEncode : Prop :=
  ∀ i : Instr, i.wellFormed = true →
    decode (encode i) = .ok i ∧ decodeTableWord 16 (encode i).toNat = some i

/-- R95: a word is illegal in exactly the three cases of the rule, else it is the command of its
opcode; the legal words are 36. -/
def Obligations.DecodeFollowsTheThreeTests : Prop :=
  (∀ w : CmdWord,
    (w.toNat / 4096 ≠ 0 → ∀ i, decode w ≠ .ok i) ∧
    (w.toNat % 256 ∉ plainOpcodes → w.toNat % 256 ≠ 0x34 → ∀ i, decode w ≠ .ok i) ∧
    (w.toNat % 256 ≠ 0x34 → w.toNat / 256 % 16 ≠ 0 → ∀ i, decode w ≠ .ok i) ∧
    (w.toNat / 4096 = 0 → w.toNat % 256 = 0x34 → decode w = .ok (.addrk (w.toNat / 256 % 16))) ∧
    (w.toNat / 4096 = 0 → w.toNat % 256 ∈ plainOpcodes → w.toNat / 256 % 16 = 0 →
      ∃ i, decode w = .ok i ∧ i.opcode.toNat = w.toNat % 256)) ∧
  legalWords.length = 36 ∧ legalWords.Nodup ∧
  ∀ w : CmdWord, (∃ i, decode w = .ok i) ↔ w ∈ legalWords

/-- R93: a word encodes the command of a row iff (w AND mask) = match. -/
def Obligations.DecodeAgreesWithMatchAndMask : Prop :=
  ∀ row ∈ commandTable, ∀ w : CmdWord,
    w &&& row.mask = row.word ↔ decode w = .ok (row.command w)

/-- R93, R94: words written out from the format, and the direction bit. -/
def Obligations.SampleWordsDecode : Prop :=
  decode 0b0000000000000000 = .ok .nop ∧ decode 0b0000000000010000 = .ok .gfmul ∧
  decode 0b0000000000100001 = .ok .subbI ∧ decode 0b0000000000110010 = .ok .mixcF ∧
  decode 0b0000101000110100 = .ok (.addrk 10) ∧ decode 0b0000000001000000 = .ok .kexp ∧
  decode 0b0000000001010001 = .ok .decb ∧ decode 0b0000000001100010 = .ok .cbcenc ∧
  decode 0b0000000001110001 = .ok .openContainer ∧
  decode 0x0110 = .error .rndFieldSet ∧ decode 0x1010 = .error .zeroFieldSet ∧
  decode 0x0011 = .error .unassignedOpcode ∧
  encode .subbI = encode .subbF + 1 ∧ encode .subsI = encode .subsF + 1 ∧
  encode .shrI = encode .shrF + 1 ∧ encode .mixcI = encode .mixcF + 1 ∧
  encode .decb = encode .encb + 1 ∧ encode .unpad = encode .pad + 1 ∧
  encode .cbcdec = encode .cbcenc + 1 ∧ encode .openContainer = encode .sealContainer + 1

/-- One step serves the host's next access from beginning to end (R22, R24, R62, R64, R73): a legal
word written to CMD is executed, the upper half of the value dropped; any other write is HostWrite; a
read hands HostRead's value to the host; a pulse on the reset input resets. How the accesses wait,
and how a table word is brought to CMD, is the model's (log entry 2). -/
def Obligations.StepRunsTheWrittenCommand : Prop :=
  (∀ (s : State) (v : Word32) (rest : List HostEvent) (i : Instr),
    s.pending = .write 0 v :: rest → decode (BitVec.ofNat 16 (v.toNat % 65536)) = .ok i →
      step s = exec i { s with pending := rest }) ∧
  (∀ (s : State) (w : Nat) (i : Instr),
    decodeTableWord 16 w = some i → step (s.withFetchWord 16 w) = exec i s) ∧
  (∀ (s : State) (n v : Word32) (rest : List HostEvent), s.pending = .write n v :: rest → n ≠ 0 →
    step s = .next (hostWrite Config.params n v { s with pending := rest })) ∧
  (∀ (s : State) (v : Word32) (rest : List HostEvent), s.pending = .write 0 v :: rest →
    step s = writeCmd v { s with pending := rest }) ∧
  (∀ s : State, s.pending = [] → step s = .next s)

/-- R252: a word that is none of the 36 legal words writes ERR <- 6, SUB <- 0 and changes nothing
else; it is not even recorded. -/
def Obligations.IllegalWordRaisesIllegalCommand : Prop :=
  ∀ (s : State) (v : Word32), s.hidden = Hidden.idle → IllegalValue v →
    writeCmd v s = .next { s with err := 6, sub := 0 }

/-! ## The host interface -/

/-- R61, R65, R63: a read returns the register its number names, zero-extended, 0 for CMD and for an
unmapped number, and changes no register; the value goes to the host (log entry 2). -/
def Obligations.HostReadReturnsTheNamedRegister : Prop :=
  ∀ (s : State) (n : Word32) (rest : List HostEvent), s.pending = .read n :: rest →
    ∃ v : Word32, step s = .next { s with pending := rest, readData := s.readData ++ [v] } ∧
      (n.toNat = 0 ∨ Unmapped n.toNat → v.toNat = 0) ∧
      (n.toNat = 1 →
        v.toNat = s.err.toNat + 16 * s.sub.toNat + 128 * s.rkv.toNat + 256 * s.nr.toNat) ∧
      (n.toNat = 2 → v.toNat = s.opa.toNat) ∧
      (n.toNat = 3 → v.toNat = s.opb.toNat) ∧
      (n.toNat = 4 → v.toNat = s.res.toNat) ∧
      (n.toNat = 5 → v.toNat = s.klen.toNat) ∧
      (n.toNat = 6 → v.toNat = s.ivlen.toNat) ∧
      (n.toNat = 7 → v.toNat = s.mklen.toNat) ∧
      (n.toNat = 8 → v.toNat = s.len.toNat) ∧
      (n.toNat = 9 → v.toNat = Config.params.bufCap) ∧
      (n.toNat = 10 → v.toNat = Config.params.macLen) ∧
      (∀ i : Fin 16, n.toNat = 0x10 + i.val → v.toNat = s.st[i].toNat) ∧
      (∀ i : Fin 16, n.toNat = 0x20 + i.val → v.toNat = s.iv[i].toNat) ∧
      (∀ i : Fin 32, n.toNat = 0x40 + i.val → v.toNat = s.key[i].toNat) ∧
      (∀ i : Fin 240, n.toNat = 0x100 + i.val → v.toNat = s.rk[i].toNat) ∧
      (∀ i : Fin 256, n.toNat = 0x200 + i.val → v.toNat = s.mkey[i].toNat) ∧
      (∀ i : Nat, i < Config.params.bufCap → n.toNat = 0x10000 + i →
        v.toNat = (s.buf.read i).toNat)

/-- R62, with the numbers of R65: a write to a readable and writable register stores the low bits of
the value and changes nothing else; a write to a read-only register or an unmapped number does
nothing and records no error; a write to CMD executes the command in the low 16 bits. -/
def Obligations.HostWriteSetsOneRegister : Prop :=
  ∀ (s : State) (n v : Word32),
    let w := hostWrite Config.params n v s
    let b := BitVec.ofNat 8 v.toNat
    (n.toNat = 2 → w = { s with opa := b }) ∧
    (n.toNat = 3 → w = { s with opb := b }) ∧
    (n.toNat = 5 → w = { s with klen := b }) ∧
    (n.toNat = 6 → w = { s with ivlen := b }) ∧
    (n.toNat = 7 → w = { s with mklen := BitVec.ofNat 16 v.toNat }) ∧
    (n.toNat = 8 → w = { s with len := v }) ∧
    (∀ i : Fin 16, n.toNat = 0x10 + i.val → w = { s with st := s.st.set i b }) ∧
    (∀ i : Fin 16, n.toNat = 0x20 + i.val → w = { s with iv := s.iv.set i b }) ∧
    (∀ i : Fin 32, n.toNat = 0x40 + i.val → w = { s with key := s.key.set i b }) ∧
    (∀ i : Fin 256, n.toNat = 0x200 + i.val → w = { s with mkey := s.mkey.set i b }) ∧
    (∀ i : Nat, i < Config.params.bufCap → n.toNat = 0x10000 + i →
      w = { s with buf := s.buf.write i b }) ∧
    (ReadOnly n.toNat ∨ Unmapped n.toNat → w = s) ∧
    ∀ i : Instr, decode (BitVec.ofNat 16 (v.toNat % 65536)) = .ok i → writeCmd v s = exec i s

/-- R61, R62, R35: a byte written to BUF is what a read of the same number returns next, and every
other byte of BUF reads as before. -/
def Obligations.BufWriteThenRead : Prop :=
  ∀ (s : State) (i : Nat) (v : Word32), s.buf.wf → i < Config.params.bufCap →
    let n := BitVec.ofNat 32 (0x10000 + i)
    let t := hostWrite Config.params n v s
    (hostRead Config.params n t).toNat = v.toNat % 256 ∧
      ∀ a, a ≠ i → t.buf.read a = s.buf.read a

/-- R99: served one after the other (log entry 2), the accesses of a pseudo-command leave the bytes
in the first places of the file and their count in the length register, and change nothing else. -/
def Obligations.PseudoCommandsLoadTheirFile : Prop :=
  ∀ (s : State) (bs : List Byte) (rest : List HostEvent),
    (bs.length ≤ 32 → ∃ t, Host.Core.run Sys2Proof.core (bs.length + 1) { s with pending := ldKey bs ++ rest } = .next t ∧
      t = { s with pending := rest, key := t.key, klen := BitVec.ofNat 8 bs.length } ∧
      ∀ i : Fin 32, t.key[i] = bs.getD i.val s.key[i]) ∧
    (bs.length ≤ 16 → ∃ t, Host.Core.run Sys2Proof.core (bs.length + 1) { s with pending := ldIv bs ++ rest } = .next t ∧
      t = { s with pending := rest, iv := t.iv, ivlen := BitVec.ofNat 8 bs.length } ∧
      ∀ i : Fin 16, t.iv[i] = bs.getD i.val s.iv[i]) ∧
    (bs.length ≤ 256 →
      ∃ t, Host.Core.run Sys2Proof.core (bs.length + 1) { s with pending := ldMkey bs ++ rest } = .next t ∧
      t = { s with pending := rest, mkey := t.mkey, mklen := BitVec.ofNat 16 bs.length } ∧
      ∀ i : Fin 256, t.mkey[i] = bs.getD i.val s.mkey[i]) ∧
    (s.buf.wf → bs.length ≤ Config.params.bufCap →
      ∃ t, Host.Core.run Sys2Proof.core (bs.length + 1) { s with pending := ldBuf bs ++ rest } = .next t ∧
      t = { s with pending := rest, buf := t.buf, len := BitVec.ofNat 32 bs.length } ∧
      ∀ a, t.buf.read a = bs.getD a (s.buf.read a)) ∧
    (∀ x : Block, Host.Core.run Sys2Proof.core 16 { s with pending := ldSt x ++ rest } =
      .next { s with pending := rest, st := x })

/-! ## Reset, the system commands, the parameters -/

/-- R39: after reset every register is 0 and the sequencer is IDLE; every number but CAP's and
MACLEN's reads 0; and a command that uses a key raises KeyMaterialUnavailable, no key being
loaded. -/
def Obligations.ResetClearsEveryRegister : Prop :=
  (∀ n : Word32, n ≠ 9 → n ≠ 10 → hostRead Config.params n State.reset = 0) ∧
  (hostRead Config.params 9 State.reset).toNat = Config.params.bufCap ∧
  (hostRead Config.params 10 State.reset).toNat = Config.params.macLen ∧
  State.reset.hidden = Hidden.idle ∧ (∀ a, State.reset.buf.read a = 0) ∧
  ∀ i ∈ Instr.kexp :: topLevel, ∃ t, exec i State.reset = .next t ∧ t.err = 1 ∧ t.sub = 1

/-- R280, R281: a pulse on the reset input gives the reset state, whatever the state was. What the
host still has to do, and what it has read, is the host's and stays (log entry 9). -/
def Obligations.ResetInputGivesTheResetState : Prop :=
  ∀ (s : State) (rest : List HostEvent), s.pending = .reset :: rest →
    step s = .next { State.reset with pending := rest, readData := s.readData }

/-- R231: ZEROIZE gives every register its reset value, all of BUF with them. The host's two fields
are no registers (log entry 2). -/
def Obligations.ZeroizeGivesTheResetState : Prop :=
  encode .zeroize = 0x0001 ∧
  ∀ s : State, exec .zeroize s =
    .next { State.reset with pending := s.pending, readData := s.readData }

/-- R230: NOP writes ERR <- 0, SUB <- 0 and nothing else; STATUS 0x0A87 becomes 0x0A80. -/
def Obligations.NopOnlyClearsTheError : Prop :=
  encode .nop = 0x0000 ∧
  (∀ s : State, exec .nop s = .next { s with err := 0, sub := 0 }) ∧
  ∀ s t : State, exec .nop s = .next t → statusWord s = 0x0A87 → statusWord t = 0x0A80

/-- R25: the fields of STATUS. -/
def Obligations.StatusFieldsStandInPlace : Prop :=
  ∀ s : State,
    (statusWord s).toNat % 16 = s.err.toNat ∧ (statusWord s).toNat / 16 % 8 = s.sub.toNat ∧
    (statusWord s).toNat / 128 % 2 = s.rkv.toNat ∧ (statusWord s).toNat / 256 % 16 = s.nr.toNat ∧
    (statusWord s).toNat / 4096 = 0

/-- R8, R269: the parameters CORE runs with keep the bounds the spec states. -/
def Obligations.ParametersAreLegal : Prop := Config.params.Legal

/-! ## U1: the field -/

/-- R110: Multiply is the polynomial product reduced modulo x^8+x^4+x^3+x+1, and exclusive-or is the
field's addition. -/
def Obligations.MultiplyIsThePolynomialProduct : Prop :=
  (∀ a b : Byte, ∃ q : Polynomial (ZMod 2),
    toPoly a * toPoly b = modulus * q + toPoly (multiply a b)) ∧
  (∀ a b : Byte, toPoly (a ^^^ b) = toPoly a + toPoly b) ∧
  Function.Injective toPoly

/-- R113: xtime is Multiply by 0x02, in its two cases, and the round constants are its repetition
from 0x01. -/
def Obligations.XtimeIsMultiplyByTwo : Prop :=
  (∀ a : Byte, xtime a = multiply a 0x02 ∧ xtime a = double a) ∧
  rcon 1 = 0x01 ∧ (∀ j, 1 ≤ j → rcon (j + 1) = xtime (rcon j)) ∧
  ∀ j, 1 ≤ j → j ≤ 14 → rcon j = rconTable j

/-- R112: the field laws, and the small multipliers MixColumns uses. -/
def Obligations.MultiplyIsAField : Prop :=
  (∀ a b : Byte, multiply a b = multiply b a) ∧
  (∀ a : Byte, multiply a 0x01 = a) ∧
  (∀ a : Byte, multiply a 0x00 = 0x00) ∧
  (∀ a b c : Byte, multiply a (b ^^^ c) = multiply a b ^^^ multiply a c) ∧
  (∀ a b c : Byte, multiply (multiply a b) c = multiply a (multiply b c)) ∧
  (∀ a b : Byte, a ≠ 0 → b ≠ 0 → multiply a b ≠ 0) ∧
  (∀ a : Byte, a ≠ 0 → ∃! b : Byte, multiply a b = 0x01) ∧
  (∀ v : Byte,
    multiply 0x02 v = double v ∧
    multiply 0x03 v = double v ^^^ v ∧
    multiply 0x09 v = double (double (double v)) ^^^ v ∧
    multiply 0x0b v = double (double (double v)) ^^^ double v ^^^ v ∧
    multiply 0x0d v = double (double (double v)) ^^^ double (double v) ^^^ v ∧
    multiply 0x0e v = double (double (double v)) ^^^ double (double v) ^^^ double v)

/-- R114: GFMUL writes Multiply(OPA, OPB) to RES; everything but RES, ERR and SUB is unchanged. -/
def Obligations.GfmulWritesTheProduct : Prop :=
  encode .gfmul = 0x0010 ∧
  (∀ s : State, s.hidden = Hidden.idle →
    exec .gfmul s = .next { s with res := multiply s.opa s.opb, err := 0, sub := 0 }) ∧
  (∀ s t : State, exec .gfmul s = .next t →
    (s.opa = 0 ∨ s.opb = 0 → t.res = 0) ∧ (s.opb = 1 → t.res = s.opa) ∧
    (s.opa = 0x80 → s.opb = 0x80 → t.res = 0x9a) ∧ (s.opa = 0xff → s.opb = 0xff → t.res = 0x13) ∧
    (s.opa = 0x02 → s.opb = 0x80 → t.res = 0x1b) ∧ (s.opa = 0x57 → s.opb = 0x83 → t.res = 0xc1))

/-! ## U2: the substitution tables -/

/-- R120, R123: the two tables are permutations, each the inverse of the other; Sbox is the affine
map of the field inverse; no byte is fixed. -/
def Obligations.SboxIsTheAffineInverse : Prop :=
  (∀ x : Byte, invSbox (sbox x) = x ∧ sbox (invSbox x) = x) ∧
  Function.Bijective sbox ∧ Function.Bijective invSbox ∧
  sbox 0 = affine 0 ∧
  (∀ x y : Byte, multiply x y = 0x01 → sbox x = affine y) ∧
  (∀ x : Byte, sbox x ≠ x ∧ invSbox x ≠ x) ∧
  sbox 0x00 = 0x63 ∧ sbox 0x01 = 0x7c ∧ sbox 0x53 = 0xed ∧ sbox 0xff = 0x16 ∧
  invSbox 0x00 = 0x52 ∧ invSbox 0x63 = 0x00

/-- R126, R127: SUBB writes the table entry of OPA to RES and changes nothing else but ERR and
SUB. -/
def Obligations.SubbWritesTheTableEntry : Prop :=
  encode .subbF = 0x0020 ∧ encode .subbI = 0x0021 ∧
  (∀ s : State, ∃ t, exec .subbF s = .next t ∧ t.res = sbox s.opa ∧ invSbox t.res = s.opa ∧
    t = { s with res := t.res, err := 0, sub := 0 } ∧
    (s.opa = 0x53 → t.res = 0xed) ∧ (s.opa = 0x00 → t.res = 0x63)) ∧
  (∀ s : State, ∃ t, exec .subbI s = .next t ∧ t.res = invSbox s.opa ∧ sbox t.res = s.opa ∧
    t = { s with res := t.res, err := 0, sub := 0 } ∧
    (s.opa = 0xed → t.res = 0x53) ∧ (s.opa = 0x63 → t.res = 0x00))

/-- R128, R129: SUBS replaces each of the 16 bytes by its table entry and changes nothing else but
ERR and SUB; each direction undoes the other. -/
def Obligations.SubsMapsEveryByte : Prop :=
  encode .subsF = 0x0022 ∧ encode .subsI = 0x0023 ∧
  (∀ s : State, ∃ t, exec .subsF s = .next t ∧
    t = { s with st := t.st, err := 0, sub := 0 } ∧
    (∀ i, i < 16 → byteOf t.st i = sbox (byteOf s.st i)) ∧
    (s.st = Vector.replicate 16 0x00 → t.st = Vector.replicate 16 0x63) ∧
    ∃ u, exec .subsI t = .next u ∧ u.st = s.st) ∧
  (∀ s : State, ∃ t, exec .subsI s = .next t ∧
    t = { s with st := t.st, err := 0, sub := 0 } ∧
    (∀ i, i < 16 → byteOf t.st i = invSbox (byteOf s.st i)) ∧
    ∃ u, exec .subsF t = .next u ∧ u.st = s.st)

/-! ## U3: rows and columns -/

/-- R141, R142, R136: SHR moves byte F[i] or G[i] to place i and changes nothing else but ERR and
SUB; row 0 never moves, and the two directions agree on rows 0 and 2. -/
def Obligations.ShrPermutesTheBytes : Prop :=
  encode .shrF = 0x0030 ∧ encode .shrI = 0x0031 ∧
  (∀ i, i < 16 → indexF.getD i 0 = 5 * i % 16 ∧ indexG.getD i 0 = 13 * i % 16) ∧
  (∀ i, i < 16 → i % 4 = 0 ∨ i % 4 = 2 → indexF.getD i 0 = indexG.getD i 0) ∧
  (∀ s : State, ∃ t, exec .shrF s = .next t ∧
    t = { s with st := t.st, err := 0, sub := 0 } ∧
    (∀ i, i < 16 → byteOf t.st i = byteOf s.st (indexF.getD i 0)) ∧
    (∀ c, c < 4 → byteOf t.st (4 * c) = byteOf s.st (4 * c)) ∧
    ((∀ i, i < 12 → byteOf s.st (i + 4) = byteOf s.st i) → t.st = s.st)) ∧
  (∀ s : State, ∃ t, exec .shrI s = .next t ∧
    t = { s with st := t.st, err := 0, sub := 0 } ∧
    (∀ i, i < 16 → byteOf t.st i = byteOf s.st (indexG.getD i 0)) ∧
    (∀ c, c < 4 → byteOf t.st (4 * c) = byteOf s.st (4 * c)))

/-- R143, R144, R137, R138: MIXC replaces every column by the matrix product and changes nothing
else but ERR and SUB. -/
def Obligations.MixcMultipliesByTheMatrix : Prop :=
  encode .mixcF = 0x0032 ∧ encode .mixcI = 0x0033 ∧
  (∀ s : State, s.hidden = Hidden.idle → ∃ t, exec .mixcF s = .next t ∧
    t = { s with st := t.st, err := 0, sub := 0 } ∧
    ∀ c r, c < 4 → r < 4 → byteOf t.st (4 * c + r) = mixByte matrixF s.st c r) ∧
  (∀ s : State, s.hidden = Hidden.idle → ∃ t, exec .mixcI s = .next t ∧
    t = { s with st := t.st, err := 0, sub := 0 } ∧
    ∀ c r, c < 4 → r < 4 → byteOf t.st (4 * c + r) = mixByte matrixI s.st c r)

/-- R145: both transforms written out, the forward one with xtime; a column of four equal bytes (a
zero column) is unchanged by either direction; MixColumns is linear over exclusive-or. -/
def Obligations.MixColumnsWithXtime : Prop :=
  (∀ (x : Block) (c : Nat), c < 4 →
    let v := fun k => byteOf x (4 * c + k)
    let w := fun k => byteOf (mixColumns .forward x) (4 * c + k)
    w 0 = double (v 0) ^^^ (double (v 1) ^^^ v 1) ^^^ v 2 ^^^ v 3 ∧
    w 1 = v 0 ^^^ double (v 1) ^^^ (double (v 2) ^^^ v 2) ^^^ v 3 ∧
    w 2 = v 0 ^^^ v 1 ^^^ double (v 2) ^^^ (double (v 3) ^^^ v 3) ∧
    w 3 = (double (v 0) ^^^ v 0) ^^^ v 1 ^^^ v 2 ^^^ double (v 3)) ∧
  (∀ (x : Block) (c : Nat), c < 4 →
    let e := fun k => multiply 0x0e (byteOf x (4 * c + k))
    let b := fun k => multiply 0x0b (byteOf x (4 * c + k))
    let d := fun k => multiply 0x0d (byteOf x (4 * c + k))
    let n := fun k => multiply 0x09 (byteOf x (4 * c + k))
    let w := fun k => byteOf (mixColumns .inverse x) (4 * c + k)
    w 0 = e 0 ^^^ b 1 ^^^ d 2 ^^^ n 3 ∧
    w 1 = n 0 ^^^ e 1 ^^^ b 2 ^^^ d 3 ∧
    w 2 = d 0 ^^^ n 1 ^^^ e 2 ^^^ b 3 ∧
    w 3 = b 0 ^^^ d 1 ^^^ n 2 ^^^ e 3) ∧
  (∀ (d : Direction) (x : Block) (c : Nat) (b : Byte), c < 4 →
    (∀ k, k < 4 → byteOf x (4 * c + k) = b) →
      ∀ k, k < 4 → byteOf (mixColumns d x) (4 * c + k) = b) ∧
  (∀ (d : Direction) (x y : Block),
    mixColumns d (xorBlock x y) = xorBlock (mixColumns d x) (mixColumns d y))

/-- R140, R125: each transform undoes the other direction of it, and ShiftRows commutes with
SubstituteState. -/
def Obligations.TransformsAreInverse : Prop :=
  ∀ x : Block,
    shiftRows .inverse (shiftRows .forward x) = x ∧ shiftRows .forward (shiftRows .inverse x) = x ∧
    mixColumns .inverse (mixColumns .forward x) = x ∧
    mixColumns .forward (mixColumns .inverse x) = x ∧
    substituteState .inverse (substituteState .forward x) = x ∧
    substituteState .forward (substituteState .inverse x) = x ∧
    ∀ d e, shiftRows d (substituteState e x) = substituteState e (shiftRows d x)

/-! ## U4: the key schedule -/

/-- R156, R152 to R155: with a legal KLEN, KEXP writes the schedule of KEY[0..KLEN), word by word,
zeros beyond it, NR and RKV, and changes nothing else but ERR and SUB; with any other KLEN it raises
KeyMaterialUnavailable(1) and RK, RKV and NR stay. -/
def Obligations.KexpExpandsTheKey : Prop :=
  encode .kexp = 0x0040 ∧
  (∀ s : State, KeyOk s → ∃ t, exec .kexp s = .next t ∧
    t = { s with rk := t.rk, nr := t.nr, rkv := true, err := 0, sub := 0 } ∧
    t.nr.toNat = s.klen.toNat / 4 + 6 ∧
    ScheduleOf (s.key.toList.take s.klen.toNat) (s.klen.toNat / 4) t.rk ∧
    ∀ i : Fin 16, t.rk[i.val] = s.key[i.val]) ∧
  (∀ s : State, ¬KeyOk s → s.hidden = Hidden.idle →
    exec .kexp s = .next { s with err := 1, sub := 1 })

/-! ## U5: the block engine -/

/-- R173: ADDRK r adds round key r to ST where a schedule holds it, and raises ScheduleInvalid
elsewhere; ADDRK 15 always does. -/
def Obligations.AddrkAddsTheRoundKey : Prop :=
  (∀ r, r ≤ 15 → (encode (.addrk r)).toNat = 0x0034 + 256 * r) ∧
  (∀ (s : State) (r : Nat), ScheduleOk s → r ≤ s.nr.toNat →
    ∃ t, exec (.addrk r) s = .next t ∧ t = { s with st := t.st, err := 0, sub := 0 } ∧
      (∀ j, j < 16 → byteOf t.st j = byteOf s.st j ^^^ s.rk.toList.getD (16 * r + j) 0) ∧
      ∃ u, exec (.addrk r) t = .next u ∧ u.st = s.st) ∧
  (∀ (s : State) (r : Nat), s.rkv = false ∨ s.nr.toNat < r → s.hidden = Hidden.idle →
    exec (.addrk r) s = .next { s with err := 7, sub := 0 })

/-- R174, R175: with a valid schedule ENCB and DECB put EncryptBlock and DecryptBlock of ST in ST,
and change nothing else but ERR and SUB; the key registers are not looked at. Without one they raise
ScheduleInvalid. -/
def Obligations.BlockCommandsTransformSt : Prop :=
  encode .encb = 0x0050 ∧ encode .decb = 0x0051 ∧
  (∀ (s : State) (v : Variant), s.rkv = true → s.nr.toNat = v.rounds → s.hidden = Hidden.idle →
    exec .encb s =
      .next { s with st := encryptBlock (scheduleIn v s.rk) s.st, err := 0, sub := 0 } ∧
    exec .decb s =
      .next { s with st := decryptBlock (scheduleIn v s.rk) s.st, err := 0, sub := 0 } ∧
    (∃ t u, exec .encb s = .next t ∧ exec .decb t = .next u ∧ u.st = s.st) ∧
    ∃ t u, exec .decb s = .next t ∧ exec .encb t = .next u ∧ u.st = s.st) ∧
  (∀ s : State, s.rkv = false → s.hidden = Hidden.idle →
    exec .encb s = .next { s with err := 7, sub := 0 } ∧
    exec .decb s = .next { s with err := 7, sub := 0 })

/-- R172, R266: a host that walks through P-R166 or P-R167 with the primitive commands, one
transform at a time, ends in the state ENCB or DECB ends in. -/
def Obligations.BlockCommandsEqualTheirPrimitives : Prop :=
  ∀ s : State, ScheduleOk s → s.hidden = Hidden.idle →
    execAll (encryptScript s.nr.toNat) s = exec .encb s ∧
    execAll (decryptScript s.nr.toNat) s = exec .decb s

/-- R168: for every schedule (of Nr + 1 round keys, for each of the three Nr) and every state, each
block function undoes the other; both are bijections. -/
def Obligations.DecryptInvertsEncrypt : Prop :=
  ∀ (v : Variant) (ks : Schedule v),
    (∀ x : Block, decryptBlock ks (encryptBlock ks x) = x) ∧
    (∀ x : Block, encryptBlock ks (decryptBlock ks x) = x) ∧
    Function.Bijective (encryptBlock ks) ∧ Function.Bijective (decryptBlock ks)

/-- R172: from E_INIT the sequencer performs EncryptBlock in NR + 1 micro-steps, from D_INIT
DecryptBlock, and is IDLE at the end and not before. -/
def Obligations.SequencerRunsOneBlock : Prop :=
  ∀ (s : State) (v : Variant), s.rkv = true → s.nr.toNat = v.rounds →
    (∃ t, microSteps .single (v.rounds + 1) (startSequencer .eInit s) = some t ∧
      t.st = encryptBlock (scheduleIn v s.rk) s.st ∧
      t = { startSequencer .idle s with st := t.st }) ∧
    (∃ t, microSteps .single (v.rounds + 1) (startSequencer .dInit s) = some t ∧
      t.st = decryptBlock (scheduleIn v s.rk) s.st ∧
      t = { startSequencer .idle s with st := t.st }) ∧
    ∀ k, k ≤ v.rounds → ∃ t u,
      microSteps .single k (startSequencer .eInit s) = some t ∧ t.hidden.phase ≠ .idle ∧
      microSteps .single k (startSequencer .dInit s) = some u ∧ u.hidden.phase ≠ .idle

/-- R196: over `n` blocks the sequencer does what the loops of P-R194 and P-R195 do, in NR + 3
micro-steps a block, and is IDLE at the end with BI = n. -/
def Obligations.SequencerRunsTheBlockLoop : Prop :=
  ∀ (s : State) (v : Variant) (n : Nat), s.rkv = true → s.nr.toNat = v.rounds →
    1 ≤ n → n < 2 ^ 28 →
    (∃ t, microSteps (.chain n) (n * (v.rounds + 3)) (startSequencer .cLoadX s) = some t ∧
      t.buf = (cbcEncBlocks v n 0 s).buf ∧ t.st = (cbcEncBlocks v n 0 s).st ∧
      t.hidden.cv = (cbcEncBlocks v n 0 s).hidden.cv ∧ t.hidden.phase = .idle ∧
      t.hidden.blockIx.toNat = n) ∧
    (∃ t, microSteps (.chain n) (n * (v.rounds + 3)) (startSequencer .cSave s) = some t ∧
      t.buf = (cbcDecBlocks v n 0 s).buf ∧ t.st = (cbcDecBlocks v n 0 s).st ∧
      t.hidden.cv = (cbcDecBlocks v n 0 s).hidden.cv ∧
      t.hidden.save = (cbcDecBlocks v n 0 s).hidden.save ∧ t.hidden.phase = .idle ∧
      t.hidden.blockIx.toNat = n)

/-- R23, R289: ADDRK, ENCB and DECB use the schedule of the last successful KEXP whatever KEY and
KLEN hold now. -/
def Obligations.BlockCommandsIgnoreTheKeyRegisters : Prop :=
  ∀ (s : State) (i : Instr) (k : Vector Byte 32) (n : Byte),
    (∃ r, i = .addrk r) ∨ i = .encb ∨ i = .decb →
      ∃ t, exec i s = .next t ∧
        exec i { s with key := k, klen := n } = .next { t with key := k, klen := n }

/-! ## U6: padding and chaining -/

/-- R192: PAD appends p bytes of value p behind LEN and adds p to LEN, where the padded message
fits; elsewhere it raises KeyMaterialUnavailable(4) and BUF and LEN stay. Every byte outside the p
stored ones reads as before. -/
def Obligations.PadAppendsThePadBytes : Prop :=
  encode .pad = 0x0060 ∧
  (∀ s : State, s.buf.wf → paddedLen s ≤ Config.params.bufCap →
    ∃ t, exec .pad s = .next t ∧
      t = { s with buf := t.buf, len := t.len, err := 0, sub := 0 } ∧
      t.len.toNat = paddedLen s ∧ t.len.toNat % 16 = 0 ∧
      (∀ a, s.len.toNat ≤ a → a < paddedLen s → (t.buf.read a).toNat = 16 - s.len.toNat % 16) ∧
      ∀ a, a < s.len.toNat ∨ paddedLen s ≤ a → t.buf.read a = s.buf.read a) ∧
  (∀ s : State, Config.params.bufCap < paddedLen s → s.hidden = Hidden.idle →
    exec .pad s = .next { s with err := 1, sub := 4 })

/-- R193: UNPAD takes the pad length from the last byte off LEN and writes no byte of BUF; its three
errors come in the rule's order and leave BUF and LEN alone. -/
def Obligations.UnpadRemovesThePadLength : Prop :=
  encode .unpad = 0x0061 ∧
  ∀ s : State, s.hidden = Hidden.idle →
    let n := s.len.toNat
    let p := (s.buf.read (n - 1)).toNat
    (Config.params.bufCap < n → exec .unpad s = .next { s with err := 1, sub := 4 }) ∧
    (n ≤ Config.params.bufCap → n = 0 ∨ n % 16 ≠ 0 →
      exec .unpad s = .next { s with err := 2, sub := 0 }) ∧
    (n ≤ Config.params.bufCap → n ≠ 0 → n % 16 = 0 → p = 0 ∨ 16 < p →
      exec .unpad s = .next { s with err := 3, sub := 0 }) ∧
    (n ≤ Config.params.bufCap → n ≠ 0 → n % 16 = 0 → 1 ≤ p → p ≤ 16 →
      ∃ t, exec .unpad s = .next t ∧ t = { s with len := t.len, err := 0, sub := 0 } ∧
        t.len.toNat = n - p)

/-- R186, R192, R193: UNPAD after PAD restores LEN and leaves the message in place. -/
def Obligations.UnpadInvertsPad : Prop :=
  ∀ s : State, s.buf.wf → s.hidden = Hidden.idle → paddedLen s ≤ Config.params.bufCap →
    ∃ t u, exec .pad s = .next t ∧ exec .unpad t = .next u ∧ u.err = 0 ∧ u.len = s.len ∧
      ∀ a, a < s.len.toNat → u.buf.read a = s.buf.read a

/-- R187, R194: CBCENC replaces the message by its padded ciphertext, block by block
C_b = EncryptBlock(X_b XOR C_{b−1}) with C_{−1} = IV, sets LEN, clears ERR and SUB, discards, and
leaves every byte beyond the ciphertext and IV, IVLEN, OPA, OPB and RES alone. Its three errors come
in the rule's order, leave BUF and LEN alone, and discard. -/
def Obligations.CbcencChainsTheBlocks : Prop :=
  encode .cbcenc = 0x0062 ∧
  (∀ s : State,
    (¬KeyOk s → exec .cbcenc s = .next { wiped s with err := 1, sub := 1 }) ∧
    (KeyOk s → s.ivlen.toNat ≠ 16 → exec .cbcenc s = .next { wiped s with err := 1, sub := 2 }) ∧
    (KeyOk s → s.ivlen.toNat = 16 → Config.params.bufCap < paddedLen s →
      exec .cbcenc s = .next { wiped s with err := 1, sub := 4 })) ∧
  ∀ s : State, s.buf.wf → KeyOk s → s.ivlen.toNat = 16 → paddedLen s ≤ Config.params.bufCap →
    ∃ t, exec .cbcenc s = .next t ∧
      t = { wiped s with buf := t.buf, len := t.len, err := 0, sub := 0 } ∧
      t.len.toNat = paddedLen s ∧
      (∀ b, b < paddedLen s / 16 →
        blockOf t.buf.read b =
          encryptBlock (scheduleOf s)
            (xorBlock (blockOf (paddedByte s) b) (chainBefore s.iv t.buf.read b))) ∧
      ∀ a, paddedLen s ≤ a → t.buf.read a = s.buf.read a

/-- R188, R195: CBCDEC replaces the ciphertext by P_b = DecryptBlock(C_b) XOR C_{b−1}, the C_b being
those the buffer held before the command, takes the pad length off LEN, clears ERR and SUB and
discards; a refused pad byte raises InvalidPadding with BUF[0..LEN) and LEN cleared. The four errors
before it come in the rule's order and leave BUF and LEN alone. -/
def Obligations.CbcdecUnchainsTheBlocks : Prop :=
  encode .cbcdec = 0x0063 ∧
  (∀ s : State,
    (¬KeyOk s → exec .cbcdec s = .next { wiped s with err := 1, sub := 1 }) ∧
    (KeyOk s → s.ivlen.toNat ≠ 16 → exec .cbcdec s = .next { wiped s with err := 1, sub := 2 }) ∧
    (KeyOk s → s.ivlen.toNat = 16 → Config.params.bufCap < s.len.toNat →
      exec .cbcdec s = .next { wiped s with err := 1, sub := 4 }) ∧
    (KeyOk s → s.ivlen.toNat = 16 → s.len.toNat ≤ Config.params.bufCap →
      s.len.toNat = 0 ∨ s.len.toNat % 16 ≠ 0 →
        exec .cbcdec s = .next { wiped s with err := 2, sub := 0 })) ∧
  ∀ s : State, s.buf.wf → KeyOk s → s.ivlen.toNat = 16 → s.len.toNat ≤ Config.params.bufCap →
    s.len.toNat ≠ 0 → s.len.toNat % 16 = 0 →
    (¬PadBad s s.iv s.len.toNat →
      ∃ t, exec .cbcdec s = .next t ∧
        t = { wiped s with buf := t.buf, len := t.len, err := 0, sub := 0 } ∧
        t.len.toNat = s.len.toNat - (recoveredByte s s.iv (s.len.toNat - 1)).toNat ∧
        (∀ b, b < s.len.toNat / 16 → blockOf t.buf.read b = recoveredBlock s s.iv b) ∧
        ∀ a, s.len.toNat ≤ a → t.buf.read a = s.buf.read a) ∧
    (PadBad s s.iv s.len.toNat →
      ∃ t, exec .cbcdec s = .next t ∧
        t = { wiped s with buf := t.buf, len := 0, err := 3, sub := 0 } ∧
        (∀ a, a < s.len.toNat → t.buf.read a = 0) ∧
        ∀ a, s.len.toNat ≤ a → t.buf.read a = s.buf.read a)

/-- R191: CBCDEC after CBCENC, with the key loaded again, gives back every message that fits, under
every legal key and every IV; and the ciphertext is a function of the message, the key and the IV
only. -/
def Obligations.CbcRoundTrip : Prop :=
  (∀ s : State, s.buf.wf → KeyOk s → s.ivlen.toNat = 16 → paddedLen s ≤ Config.params.bufCap →
    ∃ t u, exec .cbcenc s = .next t ∧
      exec .cbcdec { t with key := s.key, klen := s.klen } = .next u ∧
      u.err = 0 ∧ u.len = s.len ∧ ∀ a, a < s.len.toNat → u.buf.read a = s.buf.read a) ∧
  ∀ s s' : State, s.buf.wf → s'.buf.wf → SameMessage s s' →
    ∃ t t', exec .cbcenc s = .next t ∧ exec .cbcenc s' = .next t' ∧
      t.err = t'.err ∧ t.sub = t'.sub ∧ t.len = t'.len ∧
      (t.err = 0 → ∀ a, a < t.len.toNat → t.buf.read a = t'.buf.read a)

/-! ## U7: the container -/

/-- R211, R214: SEAL leaves the ciphertext CBCENC would leave, the IV behind it, and behind that the
tag of ciphertext and IV under the MAC key, and LEN is their length; every byte beyond the container
is untouched. Its four errors come in the rule's order, leave BUF and LEN alone, and discard. -/
def Obligations.SealBuildsTheContainer : Prop :=
  encode .sealContainer = 0x0070 ∧
  (∀ s : State,
    (¬KeyOk s → exec .sealContainer s = .next { wiped s with err := 1, sub := 1 }) ∧
    (KeyOk s → s.ivlen.toNat ≠ 16 →
      exec .sealContainer s = .next { wiped s with err := 1, sub := 2 }) ∧
    (KeyOk s → s.ivlen.toNat = 16 → ¬MacKeyOk s →
      exec .sealContainer s = .next { wiped s with err := 1, sub := 3 }) ∧
    (KeyOk s → s.ivlen.toNat = 16 → MacKeyOk s →
      Config.params.bufCap < paddedLen s + 16 + Config.params.macLen →
        exec .sealContainer s = .next { wiped s with err := 1, sub := 4 })) ∧
  ∀ s : State, s.buf.wf → KeyOk s → s.ivlen.toNat = 16 → MacKeyOk s →
    paddedLen s + 16 + Config.params.macLen ≤ Config.params.bufCap →
    ∃ t e, exec .sealContainer s = .next t ∧ exec .cbcenc s = .next e ∧
      t = { wiped s with buf := t.buf, len := t.len, err := 0, sub := 0 } ∧
      t.len.toNat = paddedLen s + 16 + Config.params.macLen ∧
      (∀ a, a < paddedLen s → t.buf.read a = e.buf.read a) ∧
      (∀ i, i < 16 → t.buf.read (paddedLen s + i) = byteOf s.iv i) ∧
      t.buf.readBytes (paddedLen s + 16) Config.params.macLen =
        Config.params.mac (s.mkey.toList.take s.mklen.toNat)
          (t.buf.readBytes 0 (paddedLen s + 16)) ∧
      ∀ a, paddedLen s + 16 + Config.params.macLen ≤ a → t.buf.read a = s.buf.read a

/-- R250: IntegrityError is raised by OPEN alone, where the recomputed tag differs from the stored
one: BUF, LEN, IV and IVLEN are as the host left them, nothing is decrypted, and the keys are
discarded. -/
def Obligations.TagMismatchLeavesTheBuffer : Prop :=
  (∀ s : State, KeyOk s → MacKeyOk s → s.len.toNat ≤ Config.params.bufCap →
    16 + Config.params.macLen ≤ s.len.toNat → ¬TagOk s (clenOf s) →
      exec .openContainer s = .next { wiped s with err := 4, sub := 0 }) ∧
  ∀ (i : Instr) (s t : State), i ≠ .openContainer → exec i s = .next t → t.err ≠ 4

/-- R212, R215: where the tags match, OPEN does to the ciphertext what CBCDEC does with the
container's IV, and leaves that IV in IV, and 16 in IVLEN; a ciphertext of a bad length is refused
after the tag, with BUF and LEN unchanged. The five errors before it come in the rule's order and
leave BUF, LEN, IV and IVLEN alone. -/
def Obligations.OpenDecryptsAfterTheTag : Prop :=
  encode .openContainer = 0x0071 ∧
  (∀ s : State,
    (¬KeyOk s → exec .openContainer s = .next { wiped s with err := 1, sub := 1 }) ∧
    (KeyOk s → ¬MacKeyOk s → exec .openContainer s = .next { wiped s with err := 1, sub := 3 }) ∧
    (KeyOk s → MacKeyOk s → Config.params.bufCap < s.len.toNat →
      exec .openContainer s = .next { wiped s with err := 1, sub := 4 }) ∧
    (KeyOk s → MacKeyOk s → s.len.toNat ≤ Config.params.bufCap →
      s.len.toNat < 16 + Config.params.macLen →
        exec .openContainer s = .next { wiped s with err := 2, sub := 0 }) ∧
    (KeyOk s → MacKeyOk s → s.len.toNat ≤ Config.params.bufCap →
      16 + Config.params.macLen ≤ s.len.toNat → ¬TagOk s (clenOf s) →
        exec .openContainer s = .next { wiped s with err := 4, sub := 0 })) ∧
  ∀ s : State, s.buf.wf → KeyOk s → MacKeyOk s → s.len.toNat ≤ Config.params.bufCap →
    16 + Config.params.macLen ≤ s.len.toNat → TagOk s (clenOf s) →
    (clenOf s = 0 ∨ clenOf s % 16 ≠ 0 →
      exec .openContainer s =
        .next { wiped s with iv := containerIv s, ivlen := 16, err := 2, sub := 0 }) ∧
    (clenOf s ≠ 0 → clenOf s % 16 = 0 →
      ∃ t, exec .openContainer s = .next t ∧
        exec .cbcdec
          { s with len := BitVec.ofNat 32 (clenOf s), iv := containerIv s, ivlen := 16 } =
            .next t ∧
        t.iv = containerIv s ∧ t.ivlen.toNat = 16 ∧
        (¬PadBad s (containerIv s) (clenOf s) →
          t.err = 0 ∧
          t.len.toNat =
            clenOf s - (recoveredByte s (containerIv s) (clenOf s - 1)).toNat ∧
          (∀ a, a < clenOf s → t.buf.read a = recoveredByte s (containerIv s) a)) ∧
        (PadBad s (containerIv s) (clenOf s) →
          t.err = 3 ∧ t.len = 0 ∧ ∀ a, a < clenOf s → t.buf.read a = 0) ∧
        ∀ a, clenOf s ≤ a → t.buf.read a = s.buf.read a)

/-- R216: OPEN after SEAL, with the keys loaded again, gives back every message whose container
fits, for every key, IV and MAC key, and whatever `Mac` is. -/
def Obligations.SealOpenRoundTrip : Prop :=
  ∀ s : State, s.buf.wf → KeyOk s → s.ivlen.toNat = 16 → MacKeyOk s →
    paddedLen s + 16 + Config.params.macLen ≤ Config.params.bufCap →
    ∃ t u, exec .sealContainer s = .next t ∧
      exec .openContainer
        { t with key := s.key, klen := s.klen, mkey := s.mkey, mklen := s.mklen } = .next u ∧
      u.err = 0 ∧ u.len = s.len ∧ u.iv = s.iv ∧
      ∀ a, a < s.len.toNat → u.buf.read a = s.buf.read a

/-- R216: of a sealed container, any change to a byte of the tag region makes OPEN return
IntegrityError and leave the buffer as it is, for every `Mac`. -/
def Obligations.ChangedTagIsRejected : Prop :=
  ∀ (s : State) (j : Nat) (v : Byte), s.buf.wf → KeyOk s → s.ivlen.toNat = 16 → MacKeyOk s →
    paddedLen s + 16 + Config.params.macLen ≤ Config.params.bufCap →
    j < Config.params.macLen →
    ∃ t, exec .sealContainer s = .next t ∧
      (t.buf.read (paddedLen s + 16 + j) ≠ v →
        ∃ u, exec .openContainer
            { t with
              key := s.key
              klen := s.klen
              mkey := s.mkey
              mklen := s.mklen
              buf := t.buf.write (paddedLen s + 16 + j) v } = .next u ∧
          u.err = 4 ∧ u.buf = t.buf.write (paddedLen s + 16 + j) v ∧ u.len = t.len)

/-- R216: SEAL is a function of the message, the key, the IV and the MAC key: two states that hold the
same ones end with the same container, or with the same error. -/
def Obligations.SealDependsOnItsInputsOnly : Prop :=
  ∀ s s' : State, s.buf.wf → s'.buf.wf → SameInputs s s' →
    ∃ t t', exec .sealContainer s = .next t ∧ exec .sealContainer s' = .next t' ∧
      t.err = t'.err ∧ t.sub = t'.sub ∧ t.len = t'.len ∧
      (t.err = 0 → ∀ a, a < t.len.toNat → t.buf.read a = t'.buf.read a)

/-! ## Errors and the discard -/

/-- R254: every command answers a next state that reports the first error of its row whose condition
held before the command, or 0. The premise on NR is implied by the invariant of
EveryStepKeepsTheInvariant: no run reaches RKV = 1 with another NR (log entry 8). -/
def Obligations.FirstErrorIsReported : Prop :=
  ∀ (i : Instr) (s : State), s.buf.wf → (s.rkv = true → ScheduleOk s) →
    ∃ t, exec i s = .next t ∧ (t.err.toNat, t.sub.toNat) = firstError i s

/-- R256: an error found before any write leaves BUF and LEN, and for the top-level commands (with
the discard) everything else but ERR, SUB and, where OPEN had matched the tag, IV and IVLEN; only
InvalidPadding of CBCDEC and OPEN clears the decrypted bytes and LEN. An illegal word changes only
ERR and SUB. -/
def Obligations.FailingCommandsLeaveBufAndLen : Prop :=
  (∀ (s : State) (v : Word32), s.hidden = Hidden.idle → IllegalValue v →
    ∃ t, writeCmd v s = .next t ∧ t = { s with err := t.err, sub := t.sub }) ∧
  ∀ (i : Instr) (s : State), s.buf.wf → s.hidden = Hidden.idle → firstError i s ≠ (0, 0) →
    ∃ t, exec i s = .next t ∧
      (i ∉ topLevel → t = { s with err := t.err, sub := t.sub }) ∧
      (i ∈ topLevel → t.err ≠ 3 →
        t = { wiped s with iv := t.iv, ivlen := t.ivlen, err := t.err, sub := t.sub } ∧
        (i ≠ .openContainer ∨ t.err ≠ 2 ∨ s.len.toNat < 16 + Config.params.macLen →
          t.iv = s.iv ∧ t.ivlen = s.ivlen)) ∧
      (i = .cbcdec → t.err = 3 → t.len = 0 ∧ (∀ a, a < s.len.toNat → t.buf.read a = 0) ∧
        ∀ a, s.len.toNat ≤ a → t.buf.read a = s.buf.read a) ∧
      (i = .openContainer → t.err = 3 → t.len = 0 ∧ t.iv = containerIv s ∧ t.ivlen = 16 ∧
        (∀ a, a < clenOf s → t.buf.read a = 0) ∧
        ∀ a, clenOf s ≤ a → t.buf.read a = s.buf.read a)

/-- R257: a top-level command discards on every exit: the keys, the schedule and the State are 0
afterwards, and OPA, OPB and RES are kept; issued again at once it finds no key. No other command but
ZEROIZE clears a key, and none of them but KEXP writes the schedule. -/
def Obligations.TopLevelCommandsAlwaysDiscard : Prop :=
  (∀ i ∈ topLevel, ∀ s : State, ∃ t, exec i s = .next t ∧
    t.key = Vector.replicate 32 0 ∧ t.klen = 0 ∧ t.mkey = Vector.replicate 256 0 ∧ t.mklen = 0 ∧
    t.rk = Vector.replicate 240 0 ∧ t.rkv = false ∧ t.nr = 0 ∧ t.st = Vector.replicate 16 0 ∧
    t.hidden = Hidden.idle ∧ t.opa = s.opa ∧ t.opb = s.opb ∧ t.res = s.res ∧
    t.pending = s.pending ∧ t.readData = s.readData ∧
    (i ≠ .openContainer → t.iv = s.iv ∧ t.ivlen = s.ivlen) ∧
    ∃ u, exec i t = .next u ∧ u.err = 1 ∧ u.sub = 1) ∧
  ∀ i ∉ topLevel, ∀ s : State, i ≠ .zeroize → ∃ t, exec i s = .next t ∧
    t.key = s.key ∧ t.klen = s.klen ∧ t.mkey = s.mkey ∧ t.mklen = s.mklen ∧
    (i ≠ .kexp → t.rk = s.rk ∧ t.rkv = s.rkv ∧ t.nr = s.nr)

/-- R41: what each command leaves untouched, row by row of the access matrix (ZEROIZE, which clears
everything, apart). -/
def Obligations.CommandsKeepTheAccessMatrix : Prop :=
  ∀ (i : Instr) (s : State), i ≠ .zeroize → ∃ t, exec i s = .next t ∧
    t.opa = s.opa ∧ t.opb = s.opb ∧ t.pending = s.pending ∧ t.readData = s.readData ∧
    (i ≠ .gfmul → i ≠ .subbF → i ≠ .subbI → t.res = s.res) ∧
    (i ∉ topLevel → t.key = s.key ∧ t.klen = s.klen ∧ t.mkey = s.mkey ∧ t.mklen = s.mklen) ∧
    (i ≠ .openContainer → t.iv = s.iv ∧ t.ivlen = s.ivlen) ∧
    (i ∉ topLevel → i ≠ .kexp → t.rk = s.rk ∧ t.rkv = s.rkv ∧ t.nr = s.nr) ∧
    (i ∉ topLevel → i ≠ .pad → t.buf = s.buf) ∧
    (i ∉ topLevel → i ≠ .pad → i ≠ .unpad → t.len = s.len) ∧
    (i ∉ topLevel → i ≠ .subsF → i ≠ .subsI → i ≠ .shrF → i ≠ .shrI → i ≠ .mixcF → i ≠ .mixcI →
      (∀ r, i ≠ .addrk r) → i ≠ .encb → i ≠ .decb → t.st = s.st)

/-- R71, R192 to R195, R214, R215: every byte of BUF outside the bytes a command stores to reads as
before, and those lie inside the buffer whenever the command reports success. -/
def Obligations.StoresStayInTheFootprint : Prop :=
  ∀ (i : Instr) (s : State), s.buf.wf → i ≠ .zeroize → ∃ t, exec i s = .next t ∧
    (∀ a, a < (footprint i s).1 ∨ (footprint i s).2 ≤ a → t.buf.read a = s.buf.read a) ∧
    (t.err = 0 → (footprint i s).2 ≤ Config.params.bufCap)

/-- R31: bytes of KEY at KLEN and above are ignored by every command. -/
def Obligations.KeyTailIsIgnored : Prop :=
  ∀ (i : Instr) (s : State) (k : Vector Byte 32),
    (∀ j : Fin 32, j.val < s.klen.toNat → k[j] = s.key[j]) →
      ∃ t t', exec i s = .next t ∧ exec i { s with key := k } = .next t' ∧
        t' = { t with key := t'.key }

/-- R34, R268: bytes of MKEY at MKLEN and above are ignored by every command. -/
def Obligations.MacKeyTailIsIgnored : Prop :=
  ∀ (i : Instr) (s : State) (k : Vector Byte 256),
    (∀ j : Fin 256, j.val < s.mklen.toNat → k[j] = s.mkey[j]) →
      ∃ t t', exec i s = .next t ∧ exec i { s with mkey := k } = .next t' ∧
        t' = { t with mkey := t'.mkey }

/-! ## Invariants -/

/-- R39: the reset state meets the invariant. -/
def Obligations.ResetMeetsTheInvariant : Prop := Inv State.reset

/-- R23, R25, R38, R71, R246, R247: from every state that meets the invariant, every step gives a
state that meets it: BUF keeps its form and its bounds, the hidden registers are 0 between commands,
RKV = 1 means a complete schedule and NR fits it, and ERR and SUB are codes CORE produces. -/
def Obligations.EveryStepKeepsTheInvariant : Prop :=
  ∀ s t : State, Inv s → step s = .next t → Inv t

/-- R245, R257, R259: no step faults or refuses: after any error CORE is ready for any command. -/
def Obligations.EveryStepAnswersANextState : Prop := ∀ s : State, ∃ t, step s = .next t

/-- R62, R259, R70: a host access to any register but CMD leaves ERR, SUB, RKV and NR alone, and the
schedule with them. -/
def Obligations.HostAccessesLeaveTheStatus : Prop :=
  ∀ (s : State) (e : HostEvent) (rest : List HostEvent), s.pending = e :: rest →
    (∃ n, e = .read n) ∨ (∃ n v, e = .write n v ∧ n ≠ 0) →
      ∃ t, step s = .next t ∧ statusWord t = statusWord s ∧ t.rk = s.rk ∧ t.res = s.res ∧
        t.hidden = s.hidden

/-! ## The schedule and the round count -/

/-- R169: a block function runs only on a schedule of NR + 1 round keys. The schedule it takes is read
from RK, round key r at RK[16r..16r+16); the three block commands read it only where RKV = 1 and NR is
10, 12 or 14, and raise ScheduleInvalid where RKV = 1 stands beside another NR; and no state that meets
the invariant is such a state. What the commands do in it is the model's choice (log entry 8). -/
def Obligations.BlockFunctionsTakeAMatchingSchedule : Prop :=
  (∀ (v : Variant) (rk : Vector Byte 240),
    (scheduleIn v rk).toList.length = v.rounds + 1 ∧
    ∀ r j, r ≤ v.rounds → j < 16 →
      byteOf ((scheduleIn v rk).toList.getD r (Vector.replicate 16 0)) j =
        rk.toList.getD (16 * r + j) 0) ∧
  (∀ (s : State) (i : Instr), s.rkv = true → ¬ScheduleOk s → s.hidden = Hidden.idle →
    (∃ r, i = .addrk r) ∨ i = .encb ∨ i = .decb →
      exec i s = .next { s with err := 7, sub := 0 }) ∧
  (∀ (s : State) (r : Nat), (heldRoundKey s r).isSome ↔ ScheduleOk s ∧ r ≤ s.nr.toNat) ∧
  ∀ s : State, Inv s → s.rkv = true → ScheduleOk s
end

