-- ==== Sys2Proof/Laws/Blocks.lean ====
section
/-! SUPPORT. Exclusive-or of blocks, and each transform of the State byte by byte. -/

namespace Sys2Proof.Machine

@[simp] theorem getElem_xorBlock (x y : Block) (i : Nat) (h : i < 16) :
    (xorBlock x y)[i] = x[i] ^^^ y[i] := by
  simp [xorBlock]

/-- Adding a block twice gives back what was there. -/
@[simp] theorem xorBlock_xorBlock (x y : Block) : xorBlock (xorBlock x y) y = x := by
  ext i hi
  simp

theorem xorBlock_comm (x y : Block) : xorBlock x y = xorBlock y x := by
  ext i hi
  simp [BitVec.xor_comm]

theorem xorBlock_assoc (x y z : Block) : xorBlock (xorBlock x y) z = xorBlock x (xorBlock y z) := by
  ext i hi
  simp [BitVec.xor_assoc]

@[simp] theorem getElem_substituteState (d : Direction) (x : Block) (i : Nat) (h : i < 16) :
    (substituteState d x)[i] = substituteByte d x[i] := by
  simp [substituteState]

theorem getElem_shiftRows (d : Direction) (x : Block) (i : Nat) (h : i < 16) :
    (shiftRows d x)[i] = x[i % 4 + 4 * shiftSource d (i % 4) (i / 4)]'(by
      have h := shiftSource_lt d (i % 4) (i / 4)
      omega) := by
  simp [shiftRows]

/-- Byte 4c + r of the product (R137). -/
theorem getElem_mixColumns (d : Direction) (x : Block) (c r : Nat) (hc : c < 4) (hr : r < 4) :
    (mixColumns d x)[4 * c + r] =
      multiply (mixMatrix d)[r][0] x[4 * c] ^^^ multiply (mixMatrix d)[r][1] x[4 * c + 1] ^^^
        multiply (mixMatrix d)[r][2] x[4 * c + 2] ^^^ multiply (mixMatrix d)[r][3] x[4 * c + 3] := by
  have h1 : (4 * c + r) / 4 = c := by omega
  have h2 : (4 * c + r) % 4 = r := by omega
  simp [mixColumns, mixColumn, column, h1, h2]

end Sys2Proof.Machine
end

