-- ==== Sys2Proof/Laws/Config.lean ====
section
/-! SUPPORT. The bounds of the open parameters (`00_scope.md` R8, `60_exceptions.md` R269), each as
one lemma; nothing else can be known of them. -/

namespace Sys2Proof.Config

theorem macLen_pos : 1 ≤ params.macLen := by
  show 1 ≤ macLen
  unfold macLen
  omega

theorem macLen_le : params.macLen ≤ 65535 := by
  show macLen ≤ 65535
  unfold macLen
  omega

theorem bufCap_ge : 32 + params.macLen ≤ params.bufCap := by
  show 32 + macLen ≤ bufCap
  unfold bufCap
  omega

theorem bufCap_le : params.bufCap ≤ 2 ^ 32 - 2 ^ 16 := by
  have h : macLen ≤ 65535 := macLen_le
  show bufCap ≤ 2 ^ 32 - 2 ^ 16
  unfold bufCap
  have h2 : bufCapChoice % (2 ^ 32 - 2 ^ 16 - 31 - macLen) < 2 ^ 32 - 2 ^ 16 - 31 - macLen :=
    Nat.mod_lt _ (by omega)
  omega

/-- A buffer length fits LEN (R29). -/
theorem lt_of_le_bufCap {n : Nat} (h : n ≤ params.bufCap) : n < 2 ^ 32 := by
  have h2 := bufCap_le
  omega

/-- The capacity is at least 33 (R8). -/
theorem bufCap_ge_33 : 33 ≤ params.bufCap := by
  have h1 := bufCap_ge
  have h2 := macLen_pos
  omega

@[simp] theorem length_mac (key msg : List Byte) : (params.mac key msg).length = params.macLen := by
  show ((List.range macLen).map (macByte key msg)).length = macLen
  simp

end Sys2Proof.Config
end

