-- ==== Sys2Proof/Laws/Memory.lean ====
section
/-! SUPPORT. What a byte file's operations do: a read after a write, the canonical form and its
uniqueness, and the same for runs of bytes and for blocks. -/

namespace Sys2Proof.Machine.Memory

@[simp] theorem read_nil (a : Nat) : Memory.read [] a = 0 := rfl

theorem read_cons (c : Host.Cell) (t : Memory) (a : Nat) :
    Memory.read (c :: t) a = if c.1 = a then c.2 else t.read a := rfl

theorem wf_nil : Memory.wf [] := ⟨List.Pairwise.nil, by simp⟩

theorem wf_cons {c : Host.Cell} {t : Memory} :
    Memory.wf (c :: t) ↔ (∀ d ∈ t, c.1 < d.1) ∧ c.2 ≠ 0 ∧ t.wf := by
  simp only [wf, List.pairwise_cons, List.mem_cons, forall_eq_or_imp]
  tauto

/-- Below every listed index a file reads 0. -/
theorem read_eq_zero_of_lt {m : Memory} {a : Nat} (h : ∀ d ∈ m, a < d.1) : m.read a = 0 := by
  induction m with
  | nil => rfl
  | cons c t ih =>
    have hc : a < c.1 := h c (by simp)
    rw [read_cons, if_neg (by omega)]
    exact ih fun d hd => h d (by simp [hd])

/-- The indices a write can list are the old ones and its own. -/
theorem mem_write {m : Memory} {a : Nat} {v : Byte} {d : Host.Cell} (h : d ∈ m.write a v) :
    d ∈ m ∨ (d = (a, v) ∧ v ≠ 0) := by
  induction m with
  | nil =>
    unfold write at h
    split at h
    · simp at h
    · exact .inr ⟨by simpa using h, by assumption⟩
  | cons c t ih =>
    obtain ⟨k, w⟩ := c
    unfold write at h
    split at h
    · split at h
      · exact .inl h
      · rcases List.mem_cons.1 h with h | h
        · exact .inr ⟨h, by assumption⟩
        · exact .inl h
    · split at h
      · split at h
        · exact .inl (List.mem_cons_of_mem _ h)
        · rcases List.mem_cons.1 h with h | h
          · exact .inr ⟨h, by assumption⟩
          · exact .inl (List.mem_cons_of_mem _ h)
      · rcases List.mem_cons.1 h with rfl | h
        · exact .inl (by simp)
        · exact (ih h).imp_left (List.mem_cons_of_mem _)

/-- A read after a write, in a file of canonical form. -/
theorem read_write {m : Memory} (hm : m.wf) (a : Nat) (v : Byte) (b : Nat) :
    (m.write a v).read b = if b = a then v else m.read b := by
  induction m with
  | nil =>
    by_cases hv : v = 0
    · simp [write, hv]
    · simp only [write, if_neg hv, read_cons, read_nil, eq_comm]
  | cons c t ih =>
    obtain ⟨k, w⟩ := c
    obtain ⟨hlt, hw, ht⟩ := wf_cons.1 hm
    have ih := ih ht
    have low : ∀ j, j ≤ k → Memory.read t j = 0 := fun j hj =>
      read_eq_zero_of_lt fun d hd => Nat.lt_of_le_of_lt hj (hlt d hd)
    unfold write
    split
    · split
      · simp only [read_cons]
        by_cases hb : b = a
        · subst hb
          rw [if_neg (by omega), low b (by omega)]
          simp [*]
        · simp [hb]
      · simp only [read_cons]
        by_cases hb : b = a
        · simp [hb]
        · simp [hb, Ne.symm hb]
    · split
      · rename_i _ hk
        subst hk
        split
        · by_cases hb : b = k
          · subst hb
            rw [low b (le_refl b), if_pos rfl]
            exact Eq.symm (by assumption)
          · simp [read_cons, hb, Ne.symm hb]
        · by_cases hb : b = k
          · simp [read_cons, hb]
          · simp [read_cons, hb, Ne.symm hb]
      · rw [read_cons, read_cons, ih]
        by_cases hb : k = b
        · subst hb
          have : k ≠ a := by assumption
          simp [this]
        · simp [hb]

/-- Every write keeps the canonical form. -/
theorem wf_write {m : Memory} (hm : m.wf) (a : Nat) (v : Byte) : (m.write a v).wf := by
  induction m with
  | nil =>
    unfold write
    split
    · exact wf_nil
    · exact wf_cons.2 ⟨by simp, by assumption, wf_nil⟩
  | cons c t ih =>
    obtain ⟨k, w⟩ := c
    obtain ⟨hlt, hw, ht⟩ := wf_cons.1 hm
    unfold write
    split
    · rename_i hak
      split
      · exact hm
      · refine wf_cons.2 ⟨?_, by assumption, hm⟩
        intro d hd
        rcases List.mem_cons.1 hd with rfl | hd
        · exact hak
        · exact Nat.lt_trans hak (hlt d hd)
    · split
      · rename_i _ hk
        subst hk
        split
        · exact ht
        · exact wf_cons.2 ⟨hlt, by assumption, ht⟩
      · refine wf_cons.2 ⟨?_, hw, ih ht⟩
        intro d hd
        rcases mem_write hd with hd | ⟨rfl, -⟩
        · exact hlt d hd
        · simp only; omega

/-- In canonical form a file is determined by what it reads: equal files are equal data. -/
theorem ext_read {m n : Memory} (hm : m.wf) (hn : n.wf) (h : ∀ a, m.read a = n.read a) : m = n := by
  induction m generalizing n with
  | nil =>
    cases n with
    | nil => rfl
    | cons d u =>
      have hd := h d.1
      rw [read_cons, if_pos rfl, read_nil] at hd
      exact absurd hd.symm (wf_cons.1 hn).2.1
  | cons c t ih =>
    obtain ⟨hct, hc, ht⟩ := wf_cons.1 hm
    cases n with
    | nil =>
      have := h c.1
      rw [read_cons, if_pos rfl, read_nil] at this
      exact absurd this hc
    | cons d u =>
      obtain ⟨hdu, hd, hu⟩ := wf_cons.1 hn
      have below : ∀ {x y : Host.Cell} {r : Memory}, (∀ z ∈ r, y.1 < z.1) → x.2 ≠ 0 →
          Memory.read (y :: r) x.1 = x.2 → y.1 ≤ x.1 := by
        intro x y r hr hx hread
        by_contra hlt
        rw [read_cons, if_neg (by omega), read_eq_zero_of_lt fun z hz =>
          Nat.lt_trans (by omega) (hr z hz)] at hread
        exact hx hread.symm
      have h1 := below hdu hc (by rw [← h c.1, read_cons, if_pos rfl])
      have h2 := below hct hd (by rw [h d.1, read_cons, if_pos rfl])
      have hk : c.1 = d.1 := by omega
      have hv : c.2 = d.2 := by
        have := h c.1
        rwa [read_cons, if_pos rfl, read_cons, if_pos hk.symm] at this
      have hcd : c = d := Prod.ext hk hv
      subst hcd
      rw [ih ht hu fun a => ?_]
      have := h a
      rw [read_cons, read_cons] at this
      by_cases ha : c.1 = a
      · subst ha
        rw [read_eq_zero_of_lt hct, read_eq_zero_of_lt hdu]
      · simpa [ha] using this

theorem wf_writeBytes {m : Memory} (hm : m.wf) (a : Nat) (bs : List Byte) :
    (m.writeBytes a bs).wf := by
  induction bs generalizing m a with
  | nil => exact hm
  | cons b bs ih => exact ih (wf_write hm a b) (a + 1)

/-- A read after a run of bytes is written: the run's byte inside it, the old byte outside it. -/
theorem read_writeBytes {m : Memory} (hm : m.wf) (a : Nat) (bs : List Byte) (b : Nat) :
    (m.writeBytes a bs).read b =
      if a ≤ b ∧ b < a + bs.length then bs.getD (b - a) 0 else m.read b := by
  induction bs generalizing m a with
  | nil => simp [writeBytes]
  | cons x xs ih =>
    rw [writeBytes, ih (wf_write hm a x), read_write hm, List.length_cons]
    by_cases hb : b = a
    · subst hb
      simp
    · by_cases hin : a + 1 ≤ b ∧ b < a + 1 + xs.length
      · have : b - a = b - (a + 1) + 1 := by omega
        rw [if_pos hin, if_pos (by omega), this, List.getD_cons_succ]
      · rw [if_neg hin, if_neg hb, if_neg (by omega)]

theorem read_writeBytes_of_lt {m : Memory} (hm : m.wf) {a b : Nat} (bs : List Byte) (h : b < a) :
    (m.writeBytes a bs).read b = m.read b := by
  rw [read_writeBytes hm, if_neg (by omega)]

@[simp] theorem length_readBytes (m : Memory) (a n : Nat) : (m.readBytes a n).length = n := by
  simp [readBytes]

theorem getD_readBytes (m : Memory) (a n i : Nat) (h : i < n) :
    (m.readBytes a n).getD i 0 = m.read (a + i) := by
  simp [readBytes, List.getD, h]

/-- Two files that agree on a run of indices give the same bytes there. -/
theorem readBytes_congr {m n : Memory} {a k : Nat} (h : ∀ i, i < k → m.read (a + i) = n.read (a + i)) :
    m.readBytes a k = n.readBytes a k := by
  simp only [readBytes]
  exact List.map_congr_left fun i hi => h i (List.mem_range.1 hi)

/-- Reading back the run that was written gives the run. -/
theorem readBytes_writeBytes {m : Memory} (hm : m.wf) (a : Nat) (bs : List Byte) :
    (m.writeBytes a bs).readBytes a bs.length = bs := by
  refine List.ext_getElem (by simp) fun i h1 h2 => ?_
  have hi : ((m.writeBytes a bs).readBytes a bs.length)[i] = (m.writeBytes a bs).read (a + i) := by
    simp [readBytes]
  rw [hi, read_writeBytes hm, if_pos (by omega), Nat.add_sub_cancel_left, List.getD_eq_getElem _ _ h2]

@[simp] theorem getElem_readBlock (m : Memory) (a i : Nat) (h : i < 16) :
    (m.readBlock a)[i] = m.read (a + i) := by
  simp [readBlock]

theorem wf_writeBlock {m : Memory} (hm : m.wf) (a : Nat) (x : Block) : (m.writeBlock a x).wf :=
  wf_writeBytes hm a _

/-- A read after a block is written. -/
theorem read_writeBlock {m : Memory} (hm : m.wf) (a : Nat) (x : Block) (b : Nat) :
    (m.writeBlock a x).read b =
      if h : a ≤ b ∧ b < a + 16 then x[b - a]'(by omega) else m.read b := by
  rw [writeBlock, read_writeBytes hm, Vector.length_toList]
  by_cases h : a ≤ b ∧ b < a + 16
  · rw [if_pos h, dif_pos h, List.getD_eq_getElem _ _ (by simp; omega), Vector.getElem_toList]
  · rw [if_neg h, dif_neg h]

@[simp] theorem readBlock_writeBlock {m : Memory} (hm : m.wf) (a : Nat) (x : Block) :
    (m.writeBlock a x).readBlock a = x := by
  ext i hi
  rw [getElem_readBlock, read_writeBlock hm, dif_pos (by omega)]
  simp

/-- A block written elsewhere leaves a block alone. -/
theorem readBlock_writeBlock_ne {m : Memory} (hm : m.wf) {a b : Nat} (x : Block)
    (h : a + 16 ≤ b ∨ b + 16 ≤ a) : (m.writeBlock a x).readBlock b = m.readBlock b := by
  ext i hi
  rw [getElem_readBlock, getElem_readBlock, read_writeBlock hm, dif_neg (by omega)]

/-- A run written inside the first `n` indices lists no index at or beyond `n`. -/
theorem inside_writeBytes {m : Memory} {a n : Nat} {bs : List Byte} (hm : ∀ c ∈ m, c.1 < n)
    (h : a + bs.length ≤ n) : ∀ c ∈ m.writeBytes a bs, c.1 < n := by
  induction bs generalizing m a with
  | nil => exact hm
  | cons b bs ih =>
    rw [List.length_cons] at h
    refine ih (fun c hc => ?_) (by omega)
    rcases mem_write hc with hc | ⟨rfl, -⟩
    · exact hm c hc
    · simp only; omega

end Sys2Proof.Machine.Memory
end

