-- ==== Sys2Proof/Laws/State.lean ====
section
/-! SUPPORT. One lemma per field for each update of the state that commands share, all by rfl, so
that no later proof unfolds a record update. -/

namespace Sys2Proof.Machine

@[simp] theorem succeed_opa (s : State) : (succeed s).opa = s.opa := rfl
@[simp] theorem succeed_opb (s : State) : (succeed s).opb = s.opb := rfl
@[simp] theorem succeed_res (s : State) : (succeed s).res = s.res := rfl
@[simp] theorem succeed_klen (s : State) : (succeed s).klen = s.klen := rfl
@[simp] theorem succeed_ivlen (s : State) : (succeed s).ivlen = s.ivlen := rfl
@[simp] theorem succeed_mklen (s : State) : (succeed s).mklen = s.mklen := rfl
@[simp] theorem succeed_len (s : State) : (succeed s).len = s.len := rfl
@[simp] theorem succeed_err (s : State) : (succeed s).err = 0 := rfl
@[simp] theorem succeed_sub (s : State) : (succeed s).sub = 0 := rfl
@[simp] theorem succeed_rkv (s : State) : (succeed s).rkv = s.rkv := rfl
@[simp] theorem succeed_nr (s : State) : (succeed s).nr = s.nr := rfl
@[simp] theorem succeed_st (s : State) : (succeed s).st = s.st := rfl
@[simp] theorem succeed_iv (s : State) : (succeed s).iv = s.iv := rfl
@[simp] theorem succeed_key (s : State) : (succeed s).key = s.key := rfl
@[simp] theorem succeed_rk (s : State) : (succeed s).rk = s.rk := rfl
@[simp] theorem succeed_mkey (s : State) : (succeed s).mkey = s.mkey := rfl
@[simp] theorem succeed_buf (s : State) : (succeed s).buf = s.buf := rfl
@[simp] theorem succeed_hidden (s : State) : (succeed s).hidden = s.hidden := rfl
@[simp] theorem succeed_pending (s : State) : (succeed s).pending = s.pending := rfl
@[simp] theorem succeed_readData (s : State) : (succeed s).readData = s.readData := rfl

@[simp] theorem setError_opa (e : CmdError) (s : State) : (setError e s).opa = s.opa := rfl
@[simp] theorem setError_opb (e : CmdError) (s : State) : (setError e s).opb = s.opb := rfl
@[simp] theorem setError_res (e : CmdError) (s : State) : (setError e s).res = s.res := rfl
@[simp] theorem setError_klen (e : CmdError) (s : State) : (setError e s).klen = s.klen := rfl
@[simp] theorem setError_ivlen (e : CmdError) (s : State) : (setError e s).ivlen = s.ivlen := rfl
@[simp] theorem setError_mklen (e : CmdError) (s : State) : (setError e s).mklen = s.mklen := rfl
@[simp] theorem setError_len (e : CmdError) (s : State) : (setError e s).len = s.len := rfl
@[simp] theorem setError_err (e : CmdError) (s : State) : (setError e s).err = e.code := rfl
@[simp] theorem setError_sub (e : CmdError) (s : State) : (setError e s).sub = e.cause := rfl
@[simp] theorem setError_rkv (e : CmdError) (s : State) : (setError e s).rkv = s.rkv := rfl
@[simp] theorem setError_nr (e : CmdError) (s : State) : (setError e s).nr = s.nr := rfl
@[simp] theorem setError_st (e : CmdError) (s : State) : (setError e s).st = s.st := rfl
@[simp] theorem setError_iv (e : CmdError) (s : State) : (setError e s).iv = s.iv := rfl
@[simp] theorem setError_key (e : CmdError) (s : State) : (setError e s).key = s.key := rfl
@[simp] theorem setError_rk (e : CmdError) (s : State) : (setError e s).rk = s.rk := rfl
@[simp] theorem setError_mkey (e : CmdError) (s : State) : (setError e s).mkey = s.mkey := rfl
@[simp] theorem setError_buf (e : CmdError) (s : State) : (setError e s).buf = s.buf := rfl
@[simp] theorem setError_hidden (e : CmdError) (s : State) : (setError e s).hidden = s.hidden := rfl
@[simp] theorem setError_pending (e : CmdError) (s : State) : (setError e s).pending = s.pending := rfl
@[simp] theorem setError_readData (e : CmdError) (s : State) : (setError e s).readData = s.readData := rfl

@[simp] theorem clearHidden_opa (s : State) : (clearHidden s).opa = s.opa := rfl
@[simp] theorem clearHidden_opb (s : State) : (clearHidden s).opb = s.opb := rfl
@[simp] theorem clearHidden_res (s : State) : (clearHidden s).res = s.res := rfl
@[simp] theorem clearHidden_klen (s : State) : (clearHidden s).klen = s.klen := rfl
@[simp] theorem clearHidden_ivlen (s : State) : (clearHidden s).ivlen = s.ivlen := rfl
@[simp] theorem clearHidden_mklen (s : State) : (clearHidden s).mklen = s.mklen := rfl
@[simp] theorem clearHidden_len (s : State) : (clearHidden s).len = s.len := rfl
@[simp] theorem clearHidden_err (s : State) : (clearHidden s).err = s.err := rfl
@[simp] theorem clearHidden_sub (s : State) : (clearHidden s).sub = s.sub := rfl
@[simp] theorem clearHidden_rkv (s : State) : (clearHidden s).rkv = s.rkv := rfl
@[simp] theorem clearHidden_nr (s : State) : (clearHidden s).nr = s.nr := rfl
@[simp] theorem clearHidden_st (s : State) : (clearHidden s).st = s.st := rfl
@[simp] theorem clearHidden_iv (s : State) : (clearHidden s).iv = s.iv := rfl
@[simp] theorem clearHidden_key (s : State) : (clearHidden s).key = s.key := rfl
@[simp] theorem clearHidden_rk (s : State) : (clearHidden s).rk = s.rk := rfl
@[simp] theorem clearHidden_mkey (s : State) : (clearHidden s).mkey = s.mkey := rfl
@[simp] theorem clearHidden_buf (s : State) : (clearHidden s).buf = s.buf := rfl
@[simp] theorem clearHidden_hidden (s : State) : (clearHidden s).hidden = Hidden.idle := rfl
@[simp] theorem clearHidden_pending (s : State) : (clearHidden s).pending = s.pending := rfl
@[simp] theorem clearHidden_readData (s : State) : (clearHidden s).readData = s.readData := rfl

@[simp] theorem discard_opa (s : State) : (discard s).opa = s.opa := rfl
@[simp] theorem discard_opb (s : State) : (discard s).opb = s.opb := rfl
@[simp] theorem discard_res (s : State) : (discard s).res = s.res := rfl
@[simp] theorem discard_klen (s : State) : (discard s).klen = 0 := rfl
@[simp] theorem discard_ivlen (s : State) : (discard s).ivlen = s.ivlen := rfl
@[simp] theorem discard_mklen (s : State) : (discard s).mklen = 0 := rfl
@[simp] theorem discard_len (s : State) : (discard s).len = s.len := rfl
@[simp] theorem discard_err (s : State) : (discard s).err = s.err := rfl
@[simp] theorem discard_sub (s : State) : (discard s).sub = s.sub := rfl
@[simp] theorem discard_rkv (s : State) : (discard s).rkv = false := rfl
@[simp] theorem discard_nr (s : State) : (discard s).nr = 0 := rfl
@[simp] theorem discard_st (s : State) : (discard s).st = Vector.replicate 16 0 := rfl
@[simp] theorem discard_iv (s : State) : (discard s).iv = s.iv := rfl
@[simp] theorem discard_key (s : State) : (discard s).key = Vector.replicate 32 0 := rfl
@[simp] theorem discard_rk (s : State) : (discard s).rk = Vector.replicate 240 0 := rfl
@[simp] theorem discard_mkey (s : State) : (discard s).mkey = Vector.replicate 256 0 := rfl
@[simp] theorem discard_buf (s : State) : (discard s).buf = s.buf := rfl
@[simp] theorem discard_hidden (s : State) : (discard s).hidden = Hidden.idle := rfl
@[simp] theorem discard_pending (s : State) : (discard s).pending = s.pending := rfl
@[simp] theorem discard_readData (s : State) : (discard s).readData = s.readData := rfl

@[simp] theorem completeTop_opa (s : State) : (completeTop s).opa = s.opa := rfl
@[simp] theorem completeTop_opb (s : State) : (completeTop s).opb = s.opb := rfl
@[simp] theorem completeTop_res (s : State) : (completeTop s).res = s.res := rfl
@[simp] theorem completeTop_klen (s : State) : (completeTop s).klen = 0 := rfl
@[simp] theorem completeTop_ivlen (s : State) : (completeTop s).ivlen = s.ivlen := rfl
@[simp] theorem completeTop_mklen (s : State) : (completeTop s).mklen = 0 := rfl
@[simp] theorem completeTop_len (s : State) : (completeTop s).len = s.len := rfl
@[simp] theorem completeTop_err (s : State) : (completeTop s).err = 0 := rfl
@[simp] theorem completeTop_sub (s : State) : (completeTop s).sub = 0 := rfl
@[simp] theorem completeTop_rkv (s : State) : (completeTop s).rkv = false := rfl
@[simp] theorem completeTop_nr (s : State) : (completeTop s).nr = 0 := rfl
@[simp] theorem completeTop_st (s : State) : (completeTop s).st = Vector.replicate 16 0 := rfl
@[simp] theorem completeTop_iv (s : State) : (completeTop s).iv = s.iv := rfl
@[simp] theorem completeTop_key (s : State) : (completeTop s).key = Vector.replicate 32 0 := rfl
@[simp] theorem completeTop_rk (s : State) : (completeTop s).rk = Vector.replicate 240 0 := rfl
@[simp] theorem completeTop_mkey (s : State) : (completeTop s).mkey = Vector.replicate 256 0 := rfl
@[simp] theorem completeTop_buf (s : State) : (completeTop s).buf = s.buf := rfl
@[simp] theorem completeTop_hidden (s : State) : (completeTop s).hidden = Hidden.idle := rfl
@[simp] theorem completeTop_pending (s : State) : (completeTop s).pending = s.pending := rfl
@[simp] theorem completeTop_readData (s : State) : (completeTop s).readData = s.readData := rfl

@[simp] theorem raiseError_primitive_opa (e : CmdError) (s : State) : (raiseError .primitive e s).opa = s.opa := rfl
@[simp] theorem raiseError_primitive_opb (e : CmdError) (s : State) : (raiseError .primitive e s).opb = s.opb := rfl
@[simp] theorem raiseError_primitive_res (e : CmdError) (s : State) : (raiseError .primitive e s).res = s.res := rfl
@[simp] theorem raiseError_primitive_klen (e : CmdError) (s : State) : (raiseError .primitive e s).klen = s.klen := rfl
@[simp] theorem raiseError_primitive_ivlen (e : CmdError) (s : State) : (raiseError .primitive e s).ivlen = s.ivlen := rfl
@[simp] theorem raiseError_primitive_mklen (e : CmdError) (s : State) : (raiseError .primitive e s).mklen = s.mklen := rfl
@[simp] theorem raiseError_primitive_len (e : CmdError) (s : State) : (raiseError .primitive e s).len = s.len := rfl
@[simp] theorem raiseError_primitive_err (e : CmdError) (s : State) : (raiseError .primitive e s).err = e.code := rfl
@[simp] theorem raiseError_primitive_sub (e : CmdError) (s : State) : (raiseError .primitive e s).sub = e.cause := rfl
@[simp] theorem raiseError_primitive_rkv (e : CmdError) (s : State) : (raiseError .primitive e s).rkv = s.rkv := rfl
@[simp] theorem raiseError_primitive_nr (e : CmdError) (s : State) : (raiseError .primitive e s).nr = s.nr := rfl
@[simp] theorem raiseError_primitive_st (e : CmdError) (s : State) : (raiseError .primitive e s).st = s.st := rfl
@[simp] theorem raiseError_primitive_iv (e : CmdError) (s : State) : (raiseError .primitive e s).iv = s.iv := rfl
@[simp] theorem raiseError_primitive_key (e : CmdError) (s : State) : (raiseError .primitive e s).key = s.key := rfl
@[simp] theorem raiseError_primitive_rk (e : CmdError) (s : State) : (raiseError .primitive e s).rk = s.rk := rfl
@[simp] theorem raiseError_primitive_mkey (e : CmdError) (s : State) : (raiseError .primitive e s).mkey = s.mkey := rfl
@[simp] theorem raiseError_primitive_buf (e : CmdError) (s : State) : (raiseError .primitive e s).buf = s.buf := rfl
@[simp] theorem raiseError_primitive_hidden (e : CmdError) (s : State) : (raiseError .primitive e s).hidden = Hidden.idle := rfl
@[simp] theorem raiseError_primitive_pending (e : CmdError) (s : State) : (raiseError .primitive e s).pending = s.pending := rfl
@[simp] theorem raiseError_primitive_readData (e : CmdError) (s : State) : (raiseError .primitive e s).readData = s.readData := rfl

@[simp] theorem raiseError_topLevel_opa (e : CmdError) (s : State) : (raiseError .topLevel e s).opa = s.opa := rfl
@[simp] theorem raiseError_topLevel_opb (e : CmdError) (s : State) : (raiseError .topLevel e s).opb = s.opb := rfl
@[simp] theorem raiseError_topLevel_res (e : CmdError) (s : State) : (raiseError .topLevel e s).res = s.res := rfl
@[simp] theorem raiseError_topLevel_klen (e : CmdError) (s : State) : (raiseError .topLevel e s).klen = 0 := rfl
@[simp] theorem raiseError_topLevel_ivlen (e : CmdError) (s : State) : (raiseError .topLevel e s).ivlen = s.ivlen := rfl
@[simp] theorem raiseError_topLevel_mklen (e : CmdError) (s : State) : (raiseError .topLevel e s).mklen = 0 := rfl
@[simp] theorem raiseError_topLevel_len (e : CmdError) (s : State) : (raiseError .topLevel e s).len = s.len := rfl
@[simp] theorem raiseError_topLevel_err (e : CmdError) (s : State) : (raiseError .topLevel e s).err = e.code := rfl
@[simp] theorem raiseError_topLevel_sub (e : CmdError) (s : State) : (raiseError .topLevel e s).sub = e.cause := rfl
@[simp] theorem raiseError_topLevel_rkv (e : CmdError) (s : State) : (raiseError .topLevel e s).rkv = false := rfl
@[simp] theorem raiseError_topLevel_nr (e : CmdError) (s : State) : (raiseError .topLevel e s).nr = 0 := rfl
@[simp] theorem raiseError_topLevel_st (e : CmdError) (s : State) : (raiseError .topLevel e s).st = Vector.replicate 16 0 := rfl
@[simp] theorem raiseError_topLevel_iv (e : CmdError) (s : State) : (raiseError .topLevel e s).iv = s.iv := rfl
@[simp] theorem raiseError_topLevel_key (e : CmdError) (s : State) : (raiseError .topLevel e s).key = Vector.replicate 32 0 := rfl
@[simp] theorem raiseError_topLevel_rk (e : CmdError) (s : State) : (raiseError .topLevel e s).rk = Vector.replicate 240 0 := rfl
@[simp] theorem raiseError_topLevel_mkey (e : CmdError) (s : State) : (raiseError .topLevel e s).mkey = Vector.replicate 256 0 := rfl
@[simp] theorem raiseError_topLevel_buf (e : CmdError) (s : State) : (raiseError .topLevel e s).buf = s.buf := rfl
@[simp] theorem raiseError_topLevel_hidden (e : CmdError) (s : State) : (raiseError .topLevel e s).hidden = Hidden.idle := rfl
@[simp] theorem raiseError_topLevel_pending (e : CmdError) (s : State) : (raiseError .topLevel e s).pending = s.pending := rfl
@[simp] theorem raiseError_topLevel_readData (e : CmdError) (s : State) : (raiseError .topLevel e s).readData = s.readData := rfl

@[simp] theorem resetCore_opa (s : State) : (resetCore s).opa = State.reset.opa := rfl
@[simp] theorem resetCore_opb (s : State) : (resetCore s).opb = State.reset.opb := rfl
@[simp] theorem resetCore_res (s : State) : (resetCore s).res = State.reset.res := rfl
@[simp] theorem resetCore_klen (s : State) : (resetCore s).klen = State.reset.klen := rfl
@[simp] theorem resetCore_ivlen (s : State) : (resetCore s).ivlen = State.reset.ivlen := rfl
@[simp] theorem resetCore_mklen (s : State) : (resetCore s).mklen = State.reset.mklen := rfl
@[simp] theorem resetCore_len (s : State) : (resetCore s).len = State.reset.len := rfl
@[simp] theorem resetCore_err (s : State) : (resetCore s).err = State.reset.err := rfl
@[simp] theorem resetCore_sub (s : State) : (resetCore s).sub = State.reset.sub := rfl
@[simp] theorem resetCore_rkv (s : State) : (resetCore s).rkv = State.reset.rkv := rfl
@[simp] theorem resetCore_nr (s : State) : (resetCore s).nr = State.reset.nr := rfl
@[simp] theorem resetCore_st (s : State) : (resetCore s).st = State.reset.st := rfl
@[simp] theorem resetCore_iv (s : State) : (resetCore s).iv = State.reset.iv := rfl
@[simp] theorem resetCore_key (s : State) : (resetCore s).key = State.reset.key := rfl
@[simp] theorem resetCore_rk (s : State) : (resetCore s).rk = State.reset.rk := rfl
@[simp] theorem resetCore_mkey (s : State) : (resetCore s).mkey = State.reset.mkey := rfl
@[simp] theorem resetCore_buf (s : State) : (resetCore s).buf = State.reset.buf := rfl
@[simp] theorem resetCore_hidden (s : State) : (resetCore s).hidden = State.reset.hidden := rfl
@[simp] theorem resetCore_pending (s : State) : (resetCore s).pending = s.pending := rfl
@[simp] theorem resetCore_readData (s : State) : (resetCore s).readData = s.readData := rfl

@[simp] theorem expandState_opa (s : State) : (expandState s).opa = s.opa := rfl
@[simp] theorem expandState_opb (s : State) : (expandState s).opb = s.opb := rfl
@[simp] theorem expandState_res (s : State) : (expandState s).res = s.res := rfl
@[simp] theorem expandState_klen (s : State) : (expandState s).klen = s.klen := rfl
@[simp] theorem expandState_ivlen (s : State) : (expandState s).ivlen = s.ivlen := rfl
@[simp] theorem expandState_mklen (s : State) : (expandState s).mklen = s.mklen := rfl
@[simp] theorem expandState_len (s : State) : (expandState s).len = s.len := rfl
@[simp] theorem expandState_err (s : State) : (expandState s).err = s.err := rfl
@[simp] theorem expandState_sub (s : State) : (expandState s).sub = s.sub := rfl
@[simp] theorem expandState_rkv (s : State) : (expandState s).rkv = true := rfl
@[simp] theorem expandState_nr (s : State) : (expandState s).nr = BitVec.ofNat 4 (s.klen.toNat / 4 + 6) := rfl
@[simp] theorem expandState_st (s : State) : (expandState s).st = s.st := rfl
@[simp] theorem expandState_iv (s : State) : (expandState s).iv = s.iv := rfl
@[simp] theorem expandState_key (s : State) : (expandState s).key = s.key := rfl
@[simp] theorem expandState_rk (s : State) : (expandState s).rk = expandKey (keyBytes s) := rfl
@[simp] theorem expandState_mkey (s : State) : (expandState s).mkey = s.mkey := rfl
@[simp] theorem expandState_buf (s : State) : (expandState s).buf = s.buf := rfl
@[simp] theorem expandState_hidden (s : State) : (expandState s).hidden = s.hidden := rfl
@[simp] theorem expandState_pending (s : State) : (expandState s).pending = s.pending := rfl
@[simp] theorem expandState_readData (s : State) : (expandState s).readData = s.readData := rfl

@[simp] theorem writePad_opa (s : State) : (writePad s).opa = s.opa := rfl
@[simp] theorem writePad_opb (s : State) : (writePad s).opb = s.opb := rfl
@[simp] theorem writePad_res (s : State) : (writePad s).res = s.res := rfl
@[simp] theorem writePad_klen (s : State) : (writePad s).klen = s.klen := rfl
@[simp] theorem writePad_ivlen (s : State) : (writePad s).ivlen = s.ivlen := rfl
@[simp] theorem writePad_mklen (s : State) : (writePad s).mklen = s.mklen := rfl
@[simp] theorem writePad_len (s : State) : (writePad s).len = s.len := rfl
@[simp] theorem writePad_err (s : State) : (writePad s).err = s.err := rfl
@[simp] theorem writePad_sub (s : State) : (writePad s).sub = s.sub := rfl
@[simp] theorem writePad_rkv (s : State) : (writePad s).rkv = s.rkv := rfl
@[simp] theorem writePad_nr (s : State) : (writePad s).nr = s.nr := rfl
@[simp] theorem writePad_st (s : State) : (writePad s).st = s.st := rfl
@[simp] theorem writePad_iv (s : State) : (writePad s).iv = s.iv := rfl
@[simp] theorem writePad_key (s : State) : (writePad s).key = s.key := rfl
@[simp] theorem writePad_rk (s : State) : (writePad s).rk = s.rk := rfl
@[simp] theorem writePad_mkey (s : State) : (writePad s).mkey = s.mkey := rfl
@[simp] theorem writePad_buf (s : State) : (writePad s).buf = s.buf.writeBytes (lenOf s) (padBytes (padLen (lenOf s))) := rfl
@[simp] theorem writePad_hidden (s : State) : (writePad s).hidden = s.hidden := rfl
@[simp] theorem writePad_pending (s : State) : (writePad s).pending = s.pending := rfl
@[simp] theorem writePad_readData (s : State) : (writePad s).readData = s.readData := rfl

@[simp] theorem chainFromIv_opa (s : State) : (chainFromIv s).opa = s.opa := rfl
@[simp] theorem chainFromIv_opb (s : State) : (chainFromIv s).opb = s.opb := rfl
@[simp] theorem chainFromIv_res (s : State) : (chainFromIv s).res = s.res := rfl
@[simp] theorem chainFromIv_klen (s : State) : (chainFromIv s).klen = s.klen := rfl
@[simp] theorem chainFromIv_ivlen (s : State) : (chainFromIv s).ivlen = s.ivlen := rfl
@[simp] theorem chainFromIv_mklen (s : State) : (chainFromIv s).mklen = s.mklen := rfl
@[simp] theorem chainFromIv_len (s : State) : (chainFromIv s).len = s.len := rfl
@[simp] theorem chainFromIv_err (s : State) : (chainFromIv s).err = s.err := rfl
@[simp] theorem chainFromIv_sub (s : State) : (chainFromIv s).sub = s.sub := rfl
@[simp] theorem chainFromIv_rkv (s : State) : (chainFromIv s).rkv = s.rkv := rfl
@[simp] theorem chainFromIv_nr (s : State) : (chainFromIv s).nr = s.nr := rfl
@[simp] theorem chainFromIv_st (s : State) : (chainFromIv s).st = s.st := rfl
@[simp] theorem chainFromIv_iv (s : State) : (chainFromIv s).iv = s.iv := rfl
@[simp] theorem chainFromIv_key (s : State) : (chainFromIv s).key = s.key := rfl
@[simp] theorem chainFromIv_rk (s : State) : (chainFromIv s).rk = s.rk := rfl
@[simp] theorem chainFromIv_mkey (s : State) : (chainFromIv s).mkey = s.mkey := rfl
@[simp] theorem chainFromIv_buf (s : State) : (chainFromIv s).buf = s.buf := rfl
@[simp] theorem chainFromIv_hidden (s : State) : (chainFromIv s).hidden = { s.hidden with cv := s.iv } := rfl
@[simp] theorem chainFromIv_pending (s : State) : (chainFromIv s).pending = s.pending := rfl
@[simp] theorem chainFromIv_readData (s : State) : (chainFromIv s).readData = s.readData := rfl

@[simp] theorem eraseDecrypted_opa (n : Nat) (s : State) : (eraseDecrypted n s).opa = s.opa := rfl
@[simp] theorem eraseDecrypted_opb (n : Nat) (s : State) : (eraseDecrypted n s).opb = s.opb := rfl
@[simp] theorem eraseDecrypted_res (n : Nat) (s : State) : (eraseDecrypted n s).res = s.res := rfl
@[simp] theorem eraseDecrypted_klen (n : Nat) (s : State) : (eraseDecrypted n s).klen = s.klen := rfl
@[simp] theorem eraseDecrypted_ivlen (n : Nat) (s : State) : (eraseDecrypted n s).ivlen = s.ivlen := rfl
@[simp] theorem eraseDecrypted_mklen (n : Nat) (s : State) : (eraseDecrypted n s).mklen = s.mklen := rfl
@[simp] theorem eraseDecrypted_len (n : Nat) (s : State) : (eraseDecrypted n s).len = 0 := rfl
@[simp] theorem eraseDecrypted_err (n : Nat) (s : State) : (eraseDecrypted n s).err = s.err := rfl
@[simp] theorem eraseDecrypted_sub (n : Nat) (s : State) : (eraseDecrypted n s).sub = s.sub := rfl
@[simp] theorem eraseDecrypted_rkv (n : Nat) (s : State) : (eraseDecrypted n s).rkv = s.rkv := rfl
@[simp] theorem eraseDecrypted_nr (n : Nat) (s : State) : (eraseDecrypted n s).nr = s.nr := rfl
@[simp] theorem eraseDecrypted_st (n : Nat) (s : State) : (eraseDecrypted n s).st = s.st := rfl
@[simp] theorem eraseDecrypted_iv (n : Nat) (s : State) : (eraseDecrypted n s).iv = s.iv := rfl
@[simp] theorem eraseDecrypted_key (n : Nat) (s : State) : (eraseDecrypted n s).key = s.key := rfl
@[simp] theorem eraseDecrypted_rk (n : Nat) (s : State) : (eraseDecrypted n s).rk = s.rk := rfl
@[simp] theorem eraseDecrypted_mkey (n : Nat) (s : State) : (eraseDecrypted n s).mkey = s.mkey := rfl
@[simp] theorem eraseDecrypted_buf (n : Nat) (s : State) : (eraseDecrypted n s).buf = s.buf.writeBytes 0 (List.replicate n 0) := rfl
@[simp] theorem eraseDecrypted_hidden (n : Nat) (s : State) : (eraseDecrypted n s).hidden = s.hidden := rfl
@[simp] theorem eraseDecrypted_pending (n : Nat) (s : State) : (eraseDecrypted n s).pending = s.pending := rfl
@[simp] theorem eraseDecrypted_readData (n : Nat) (s : State) : (eraseDecrypted n s).readData = s.readData := rfl

@[simp] theorem loadContainerIv_opa (n : Nat) (s : State) : (loadContainerIv n s).opa = s.opa := rfl
@[simp] theorem loadContainerIv_opb (n : Nat) (s : State) : (loadContainerIv n s).opb = s.opb := rfl
@[simp] theorem loadContainerIv_res (n : Nat) (s : State) : (loadContainerIv n s).res = s.res := rfl
@[simp] theorem loadContainerIv_klen (n : Nat) (s : State) : (loadContainerIv n s).klen = s.klen := rfl
@[simp] theorem loadContainerIv_ivlen (n : Nat) (s : State) : (loadContainerIv n s).ivlen = 16 := rfl
@[simp] theorem loadContainerIv_mklen (n : Nat) (s : State) : (loadContainerIv n s).mklen = s.mklen := rfl
@[simp] theorem loadContainerIv_len (n : Nat) (s : State) : (loadContainerIv n s).len = s.len := rfl
@[simp] theorem loadContainerIv_err (n : Nat) (s : State) : (loadContainerIv n s).err = s.err := rfl
@[simp] theorem loadContainerIv_sub (n : Nat) (s : State) : (loadContainerIv n s).sub = s.sub := rfl
@[simp] theorem loadContainerIv_rkv (n : Nat) (s : State) : (loadContainerIv n s).rkv = s.rkv := rfl
@[simp] theorem loadContainerIv_nr (n : Nat) (s : State) : (loadContainerIv n s).nr = s.nr := rfl
@[simp] theorem loadContainerIv_st (n : Nat) (s : State) : (loadContainerIv n s).st = s.st := rfl
@[simp] theorem loadContainerIv_iv (n : Nat) (s : State) : (loadContainerIv n s).iv = s.buf.readBlock n := rfl
@[simp] theorem loadContainerIv_key (n : Nat) (s : State) : (loadContainerIv n s).key = s.key := rfl
@[simp] theorem loadContainerIv_rk (n : Nat) (s : State) : (loadContainerIv n s).rk = s.rk := rfl
@[simp] theorem loadContainerIv_mkey (n : Nat) (s : State) : (loadContainerIv n s).mkey = s.mkey := rfl
@[simp] theorem loadContainerIv_buf (n : Nat) (s : State) : (loadContainerIv n s).buf = s.buf := rfl
@[simp] theorem loadContainerIv_hidden (n : Nat) (s : State) : (loadContainerIv n s).hidden = s.hidden := rfl
@[simp] theorem loadContainerIv_pending (n : Nat) (s : State) : (loadContainerIv n s).pending = s.pending := rfl
@[simp] theorem loadContainerIv_readData (n : Nat) (s : State) : (loadContainerIv n s).readData = s.readData := rfl

end Sys2Proof.Machine
end

