-- ==== Sys2Proof/Laws/Ops.lean ====
section
/-! SUPPORT. What each shared operation does, once: raising an error, the discard, the end of a
top-level command, and the padding; and the conditions the commands test, as numbers. -/

namespace Sys2Proof.Machine

/-- `raise E(s)` in a command that does not discard. -/
theorem raiseError_primitive (e : CmdError) (s : State) :
    raiseError .primitive e s = { s with err := e.code, sub := e.cause, hidden := Hidden.idle } :=
  rfl

/-- `raise E(s)` in a command that does not discard, from a state between commands. -/
theorem raiseError_primitive_idle (e : CmdError) {s : State} (h : s.hidden = Hidden.idle) :
    raiseError .primitive e s = { s with err := e.code, sub := e.cause } := by
  rw [raiseError_primitive, ← h]

/-- `raise E(s)` in a top-level command. -/
theorem raiseError_topLevel (e : CmdError) (s : State) :
    raiseError .topLevel e s = { discard s with err := e.code, sub := e.cause } := rfl

/-- The end of a top-level command that succeeds. -/
theorem completeTop_eq (s : State) : completeTop s = { discard s with err := 0, sub := 0 } := rfl

/-- The discard looks only at what it keeps. -/
theorem discard_congr {s t : State} (h1 : s.opa = t.opa) (h2 : s.opb = t.opb) (h3 : s.res = t.res)
    (h4 : s.iv = t.iv) (h5 : s.ivlen = t.ivlen) (h6 : s.len = t.len) (h7 : s.buf = t.buf)
    (h8 : s.err = t.err) (h9 : s.sub = t.sub) (h10 : s.pending = t.pending)
    (h11 : s.readData = t.readData) : discard s = discard t := by
  simp [discard, h1, h2, h3, h4, h5, h6, h7, h8, h9, h10, h11]

/-- KLEN selects a variant exactly where it is that variant's key length (R26). -/
theorem keyVariant_eq_some (s : State) (v : Variant) :
    keyVariant s = some v ↔ s.klen.toNat = v.keyLength := by
  unfold keyVariant
  cases v <;> simp only [Variant.keyLength] <;> (repeat' split) <;> simp_all <;> bv_omega

theorem keyVariant_eq_none (s : State) :
    keyVariant s = none ↔ ¬(s.klen.toNat = 16 ∨ s.klen.toNat = 24 ∨ s.klen.toNat = 32) := by
  unfold keyVariant
  repeat' split
  all_goals simp_all
  bv_omega

/-- The block commands find a variant exactly where RKV = 1 and NR is its round count (R169). -/
theorem heldVariant_eq_some (s : State) (v : Variant) :
    heldVariant s = some v ↔ s.rkv = true ∧ s.nr.toNat = v.rounds := by
  unfold heldVariant
  cases v <;> simp only [Variant.rounds] <;> (repeat' split) <;> simp_all <;> bv_omega

theorem heldVariant_eq_none (s : State) :
    heldVariant s = none ↔
      ¬(s.rkv = true ∧ (s.nr.toNat = 10 ∨ s.nr.toNat = 12 ∨ s.nr.toNat = 14)) := by
  unfold heldVariant
  repeat' split
  all_goals simp_all
  bv_omega

/-- A round key up to NR is there. -/
theorem heldRoundKey_of_le {s : State} {v : Variant} {r : Nat} (h : heldVariant s = some v)
    (hr : r ≤ v.rounds) : heldRoundKey s r = some (scheduleIn v s.rk)[r] := by
  rw [heldRoundKey, h]
  exact dif_pos (Nat.lt_succ_of_le hr)

/-- Beyond NR, or without a schedule, there is none. -/
theorem heldRoundKey_eq_none {s : State} {r : Nat} (h : s.rkv = false ∨ s.nr.toNat < r) :
    heldRoundKey s r = none := by
  unfold heldRoundKey
  split
  · rfl
  · next v hv =>
    have hv := (heldVariant_eq_some s v).1 hv
    refine dif_neg fun hr => ?_
    rcases h with h | h
    · simp [h] at hv
    · omega

/-- Byte `j` of round key `r` is RK[16r + j] (R155). -/
@[simp] theorem getElem_scheduleIn (v : Variant) (rk : Vector Byte 240) (r j : Nat)
    (hr : r < v.rounds + 1) (hj : j < 16) :
    ((scheduleIn v rk)[r])[j] = rk[16 * r + j]'(by have := v.rounds_le; omega) := by
  simp [scheduleIn, roundKey]

theorem ivLenLegal_iff (s : State) : ivLenLegal s = true ↔ s.ivlen.toNat = 16 := by
  simp only [ivLenLegal, decide_eq_true_eq, ← BitVec.toNat_inj]
  rfl

theorem macKeyLenLegal_iff (s : State) :
    macKeyLenLegal s = true ↔ 1 ≤ s.mklen.toNat ∧ s.mklen.toNat ≤ 256 := by
  simp [macKeyLenLegal]

theorem padByteBad_iff (p : Byte) : padByteBad p = true ↔ p.toNat = 0 ∨ 16 < p.toNat := by
  simp only [padByteBad, Bool.or_eq_true, decide_eq_true_eq, ← BitVec.toNat_inj]
  rfl

theorem cipherLenBad_iff (n : Nat) : cipherLenBad n = true ↔ n = 0 ∨ n % 16 ≠ 0 := by
  simp [cipherLenBad]

theorem padLen_bounds (n : Nat) : 1 ≤ padLen n ∧ padLen n ≤ 16 ∧ (n + padLen n) % 16 = 0 := by
  unfold padLen
  omega

@[simp] theorem lenOf_expandState (s : State) : lenOf (expandState s) = lenOf s := rfl
@[simp] theorem lenOf_writePad (s : State) : lenOf (writePad s) = lenOf s := rfl
@[simp] theorem lenOf_chainFromIv (s : State) : lenOf (chainFromIv s) = lenOf s := rfl

@[simp] theorem length_padBytes (p : Nat) : (padBytes p).length = p := by simp [padBytes]

theorem wf_writePad {s : State} (h : s.buf.wf) : (writePad s).buf.wf := Memory.wf_writeBytes h _ _

/-- The padding, byte by byte (R185). -/
theorem read_writePad {s : State} (h : s.buf.wf) (a : Nat) :
    (writePad s).buf.read a =
      if lenOf s ≤ a ∧ a < lenOf s + padLen (lenOf s) then BitVec.ofNat 8 (padLen (lenOf s))
      else s.buf.read a := by
  rw [writePad_buf, Memory.read_writeBytes h, length_padBytes]
  split
  · next hc =>
    have : a - lenOf s < padLen (lenOf s) := by omega
    simp [padBytes, List.getD, this]
  · rfl

/-- The erasure of R256, byte by byte. -/
theorem read_eraseDecrypted {s : State} (h : s.buf.wf) (n a : Nat) :
    (eraseDecrypted n s).buf.read a = if a < n then 0 else s.buf.read a := by
  rw [eraseDecrypted_buf, Memory.read_writeBytes h, List.length_replicate]
  by_cases hc : a < n
  · simp [hc, List.getD]
  · simp [hc]

theorem wf_eraseDecrypted {s : State} (h : s.buf.wf) (n : Nat) : (eraseDecrypted n s).buf.wf :=
  Memory.wf_writeBytes h _ _

/-- The memory of the reset state is in canonical form. -/
theorem wf_reset : State.reset.buf.wf := Memory.wf_nil

end Sys2Proof.Machine
end

