-- ==== Sys2Proof/Laws/Cbc.lean ====
section
/-! SUPPORT. What the loops of P-R194 and P-R195 do to BUF, CV and SAVE, and what they leave alone
(`45_cbc_driver.md` R187 to R190). -/

namespace Sys2Proof.Machine

variable {v : Variant}

/-! ## The encrypting loop -/

@[simp] theorem cbcEncBlock_st (b : Nat) (s : State) :
    (cbcEncBlock v b s).st = encipheredBlock v b s := by
  simp only [cbcEncBlock]

@[simp] theorem cbcEncBlock_cv (b : Nat) (s : State) :
    (cbcEncBlock v b s).hidden.cv = encipheredBlock v b s := by
  simp only [cbcEncBlock]

@[simp] theorem cbcEncBlock_buf (b : Nat) (s : State) :
    (cbcEncBlock v b s).buf = s.buf.writeBlock (16 * b) (encipheredBlock v b s) := by
  simp only [cbcEncBlock]

@[simp] theorem cbcEncBlock_rk (b : Nat) (s : State) : (cbcEncBlock v b s).rk = s.rk := rfl
@[simp] theorem cbcEncBlock_nr (b : Nat) (s : State) : (cbcEncBlock v b s).nr = s.nr := rfl

theorem wf_cbcEncBlock (b : Nat) {s : State} (h : s.buf.wf) : (cbcEncBlock v b s).buf.wf := by
  rw [cbcEncBlock_buf]
  exact Memory.wf_writeBlock h _ _

/-- The loop writes ST, BUF and CV, and nothing else. -/
theorem cbcEncBlocks_frame (n b : Nat) (s : State) :
    cbcEncBlocks v n b s =
      { s with
        st := (cbcEncBlocks v n b s).st
        buf := (cbcEncBlocks v n b s).buf
        hidden := { s.hidden with cv := (cbcEncBlocks v n b s).hidden.cv } } := by
  induction n generalizing b s with
  | zero => rfl
  | succ n ih =>
    rw [cbcEncBlocks]
    exact ih (b + 1) (cbcEncBlock v b s)

theorem wf_cbcEncBlocks (n b : Nat) {s : State} (h : s.buf.wf) : (cbcEncBlocks v n b s).buf.wf := by
  induction n generalizing b s with
  | zero => exact h
  | succ n ih => exact ih (b + 1) (wf_cbcEncBlock b h)

/-- Bytes outside the `n` blocks keep their values. -/
theorem read_cbcEncBlocks (n b : Nat) {s : State} (h : s.buf.wf) (a : Nat)
    (ha : a < 16 * b ∨ 16 * (b + n) ≤ a) : (cbcEncBlocks v n b s).buf.read a = s.buf.read a := by
  induction n generalizing b s with
  | zero => rfl
  | succ n ih =>
    rw [cbcEncBlocks, ih (b + 1) (wf_cbcEncBlock b h) (by omega)]
    rw [cbcEncBlock_buf, Memory.read_writeBlock h, dif_neg (by omega)]

theorem inside_cbcEncBlocks (n b : Nat) {s : State} {k : Nat} (h : s.buf.Inside k)
    (hk : 16 * (b + n) ≤ k) : (cbcEncBlocks v n b s).buf.Inside k := by
  induction n generalizing b s with
  | zero => exact h
  | succ n ih =>
    refine ih (b + 1) ?_ (by omega)
    rw [cbcEncBlock_buf]
    refine Memory.inside_writeBytes h ?_
    rw [Vector.length_toList]
    omega

/-- Block `b + k` after the loop is the encryption of what stood there, chained with the block before
it, or with CV where it is the first. -/
theorem readBlock_cbcEncBlocks (n b : Nat) {s : State} (h : s.buf.wf) (k : Nat) (hk : k < n) :
    (cbcEncBlocks v n b s).buf.readBlock (16 * (b + k)) =
      encryptBlock (scheduleIn v s.rk)
        (xorBlock (s.buf.readBlock (16 * (b + k)))
          (if k = 0 then s.hidden.cv
            else (cbcEncBlocks v n b s).buf.readBlock (16 * (b + k - 1)))) := by
  induction n generalizing b s k with
  | zero => omega
  | succ n ih =>
    have hw := wf_cbcEncBlock (v := v) b h
    rw [cbcEncBlocks]
    have hb : (cbcEncBlocks v n (b + 1) (cbcEncBlock v b s)).buf.readBlock (16 * b) =
        (cbcEncBlock v b s).hidden.cv := by
      have h2 : (cbcEncBlocks v n (b + 1) (cbcEncBlock v b s)).buf.readBlock (16 * b) =
          (cbcEncBlock v b s).buf.readBlock (16 * b) := by
        ext i hi
        rw [Memory.getElem_readBlock, Memory.getElem_readBlock,
          read_cbcEncBlocks n (b + 1) hw _ (by omega)]
      rw [h2, cbcEncBlock_buf, Memory.readBlock_writeBlock h, cbcEncBlock_cv]
    cases k with
    | zero =>
      rw [show b + 0 = b from rfl, hb, if_pos rfl, cbcEncBlock_cv, encipheredBlock]
    | succ k =>
      have h1 := ih (b + 1) hw k (by omega)
      have h3 : (cbcEncBlock v b s).buf.readBlock (16 * (b + 1 + k)) =
          s.buf.readBlock (16 * (b + 1 + k)) := by
        rw [cbcEncBlock_buf, Memory.readBlock_writeBlock_ne h _ (by omega)]
      rw [show b + (k + 1) = b + 1 + k by omega, h1, h3, if_neg (by omega : ¬k + 1 = 0)]
      by_cases hk0 : k = 0
      · subst hk0
        rw [if_pos rfl, show b + 1 + 0 - 1 = b by omega, hb, cbcEncBlock_rk]
      · rw [if_neg hk0, cbcEncBlock_rk]

/-- ST and CV after the loop hold the last block. -/
theorem cv_cbcEncBlocks (n b : Nat) {s : State} (h : s.buf.wf) :
    (cbcEncBlocks v n b s).hidden.cv =
      if n = 0 then s.hidden.cv else (cbcEncBlocks v n b s).buf.readBlock (16 * (b + n - 1)) := by
  induction n generalizing b s with
  | zero => rfl
  | succ n ih =>
    have hw := wf_cbcEncBlock (v := v) b h
    rw [cbcEncBlocks, ih (b + 1) hw, if_neg (Nat.succ_ne_zero n)]
    by_cases hn : n = 0
    · subst hn
      rw [if_pos rfl, cbcEncBlocks, cbcEncBlock_buf, Nat.add_sub_cancel,
        Memory.readBlock_writeBlock h, cbcEncBlock_cv]
    · rw [if_neg hn, show b + 1 + n - 1 = b + (n + 1) - 1 by omega]

/-! ## The decrypting loop -/

@[simp] theorem cbcDecBlock_st (b : Nat) (s : State) :
    (cbcDecBlock v b s).st = decipheredBlock v b s := by
  simp only [cbcDecBlock]

@[simp] theorem cbcDecBlock_cv (b : Nat) (s : State) :
    (cbcDecBlock v b s).hidden.cv = s.buf.readBlock (16 * b) := by
  simp only [cbcDecBlock]

@[simp] theorem cbcDecBlock_buf (b : Nat) (s : State) :
    (cbcDecBlock v b s).buf =
      s.buf.writeBlock (16 * b) (xorBlock (decipheredBlock v b s) s.hidden.cv) := by
  simp only [cbcDecBlock]

@[simp] theorem cbcDecBlock_rk (b : Nat) (s : State) : (cbcDecBlock v b s).rk = s.rk := rfl
@[simp] theorem cbcDecBlock_nr (b : Nat) (s : State) : (cbcDecBlock v b s).nr = s.nr := rfl

theorem wf_cbcDecBlock (b : Nat) {s : State} (h : s.buf.wf) : (cbcDecBlock v b s).buf.wf := by
  rw [cbcDecBlock_buf]
  exact Memory.wf_writeBlock h _ _

/-- The loop writes ST, BUF, CV and SAVE, and nothing else. -/
theorem cbcDecBlocks_frame (n b : Nat) (s : State) :
    cbcDecBlocks v n b s =
      { s with
        st := (cbcDecBlocks v n b s).st
        buf := (cbcDecBlocks v n b s).buf
        hidden := { s.hidden with
          cv := (cbcDecBlocks v n b s).hidden.cv
          save := (cbcDecBlocks v n b s).hidden.save } } := by
  induction n generalizing b s with
  | zero => rfl
  | succ n ih =>
    rw [cbcDecBlocks]
    exact ih (b + 1) (cbcDecBlock v b s)

theorem wf_cbcDecBlocks (n b : Nat) {s : State} (h : s.buf.wf) : (cbcDecBlocks v n b s).buf.wf := by
  induction n generalizing b s with
  | zero => exact h
  | succ n ih => exact ih (b + 1) (wf_cbcDecBlock b h)

/-- Bytes outside the `n` blocks keep their values. -/
theorem read_cbcDecBlocks (n b : Nat) {s : State} (h : s.buf.wf) (a : Nat)
    (ha : a < 16 * b ∨ 16 * (b + n) ≤ a) : (cbcDecBlocks v n b s).buf.read a = s.buf.read a := by
  induction n generalizing b s with
  | zero => rfl
  | succ n ih =>
    rw [cbcDecBlocks, ih (b + 1) (wf_cbcDecBlock b h) (by omega)]
    rw [cbcDecBlock_buf, Memory.read_writeBlock h, dif_neg (by omega)]

theorem inside_cbcDecBlocks (n b : Nat) {s : State} {k : Nat} (h : s.buf.Inside k)
    (hk : 16 * (b + n) ≤ k) : (cbcDecBlocks v n b s).buf.Inside k := by
  induction n generalizing b s with
  | zero => exact h
  | succ n ih =>
    refine ih (b + 1) ?_ (by omega)
    rw [cbcDecBlock_buf]
    refine Memory.inside_writeBytes h ?_
    rw [Vector.length_toList]
    omega

/-- Block `b + k` after the loop is the decryption of what stood there, added to what stood in the
block before it, or to CV where it is the first (R188, R190). -/
theorem readBlock_cbcDecBlocks (n b : Nat) {s : State} (h : s.buf.wf) (k : Nat) (hk : k < n) :
    (cbcDecBlocks v n b s).buf.readBlock (16 * (b + k)) =
      xorBlock (decryptBlock (scheduleIn v s.rk) (s.buf.readBlock (16 * (b + k))))
        (if k = 0 then s.hidden.cv else s.buf.readBlock (16 * (b + k - 1))) := by
  induction n generalizing b s k with
  | zero => omega
  | succ n ih =>
    have hw := wf_cbcDecBlock (v := v) b h
    rw [cbcDecBlocks]
    cases k with
    | zero =>
      have h2 : (cbcDecBlocks v n (b + 1) (cbcDecBlock v b s)).buf.readBlock (16 * b) =
          (cbcDecBlock v b s).buf.readBlock (16 * b) := by
        ext i hi
        rw [Memory.getElem_readBlock, Memory.getElem_readBlock,
          read_cbcDecBlocks n (b + 1) hw _ (by omega)]
      rw [show b + 0 = b from rfl, h2, if_pos rfl, cbcDecBlock_buf, Memory.readBlock_writeBlock h,
        decipheredBlock]
    | succ k =>
      have h1 := ih (b + 1) hw k (by omega)
      have h3 : (cbcDecBlock v b s).buf.readBlock (16 * (b + 1 + k)) =
          s.buf.readBlock (16 * (b + 1 + k)) := by
        rw [cbcDecBlock_buf, Memory.readBlock_writeBlock_ne h _ (by omega)]
      rw [show b + (k + 1) = b + 1 + k by omega, h1, h3, if_neg (by omega : ¬k + 1 = 0)]
      by_cases hk0 : k = 0
      · subst hk0
        rw [if_pos rfl, show b + 1 + 0 - 1 = b by omega, cbcDecBlock_rk,
          cbcDecBlock_cv]
      · have h4 : (cbcDecBlock v b s).buf.readBlock (16 * (b + 1 + k - 1)) =
            s.buf.readBlock (16 * (b + 1 + k - 1)) := by
          rw [cbcDecBlock_buf, Memory.readBlock_writeBlock_ne h _ (by omega)]
        rw [if_neg hk0, h4, cbcDecBlock_rk]

/-! ## The two directions over a whole buffer -/

theorem wf_cbcDecrypt (n : Nat) {s : State} (h : s.buf.wf) : (cbcDecrypt v n s).buf.wf :=
  wf_cbcDecBlocks _ _ (s := chainFromIv (expandState s)) h

theorem wf_encryptPadded {s : State} (h : s.buf.wf) : (encryptPadded v s).buf.wf :=
  wf_cbcEncBlocks _ _ (s := chainFromIv (writePad (expandState s)))
    (wf_writePad (s := expandState s) h)

/-- Decryption writes RK, NR, RKV, ST, BUF, CV and SAVE, and nothing else. -/
theorem cbcDecrypt_frame (n : Nat) (s : State) :
    cbcDecrypt v n s =
      { expandState s with
        st := (cbcDecrypt v n s).st
        buf := (cbcDecrypt v n s).buf
        hidden := { s.hidden with
          cv := (cbcDecrypt v n s).hidden.cv
          save := (cbcDecrypt v n s).hidden.save } } := by
  unfold cbcDecrypt
  exact cbcDecBlocks_frame _ _ (chainFromIv (expandState s))

/-- Encryption before LEN is set writes RK, NR, RKV, ST, BUF and CV, and nothing else. -/
theorem encryptPadded_frame (s : State) :
    encryptPadded v s =
      { expandState s with
        st := (encryptPadded v s).st
        buf := (encryptPadded v s).buf
        hidden := { s.hidden with cv := (encryptPadded v s).hidden.cv } } := by
  unfold encryptPadded
  exact cbcEncBlocks_frame _ _ (chainFromIv (writePad (expandState s)))

theorem read_cbcDecrypt_of_le {n : Nat} {s : State} (h : s.buf.wf) {a : Nat} (ha : n ≤ a) :
    (cbcDecrypt v n s).buf.read a = s.buf.read a := by
  have hn : 16 * (0 + n / 16) ≤ a := by omega
  exact read_cbcDecBlocks _ _ (s := chainFromIv (expandState s)) h a (.inr hn)

theorem read_encryptPadded_of_le {s : State} (h : s.buf.wf) {a : Nat}
    (ha : lenOf s + padLen (lenOf s) ≤ a) : (encryptPadded v s).buf.read a = s.buf.read a := by
  have hn : 16 * (0 + (lenOf s + padLen (lenOf s)) / 16) ≤ a := by omega
  have h1 : (encryptPadded v s).buf.read a = (writePad (expandState s)).buf.read a :=
    read_cbcEncBlocks _ _ (s := chainFromIv (writePad (expandState s)))
      (wf_writePad (s := expandState s) h) a (.inr hn)
  rw [h1, read_writePad (s := expandState s) h, lenOf_expandState, if_neg (by omega),
    expandState_buf]

/-- The three outcomes of `CbcDecryptInPlace(n)` (P-R195, P-R215), each as a state: a bad length, a
bad pad byte, a plaintext. -/
theorem cbcDecryptInPlace_cases (n : Nat) (s : State) :
    (cipherLenBad n = true ∧ cbcDecryptInPlace v n s = { discard s with err := 2, sub := 0 }) ∨
    (cipherLenBad n = false ∧ padByteBad ((cbcDecrypt v n s).buf.read (n - 1)) = true ∧
      cbcDecryptInPlace v n s =
        { discard s with
          buf := (eraseDecrypted n (cbcDecrypt v n s)).buf
          len := 0
          err := 3
          sub := 0 }) ∨
    (cipherLenBad n = false ∧ padByteBad ((cbcDecrypt v n s).buf.read (n - 1)) = false ∧
      cbcDecryptInPlace v n s =
        { discard s with
          buf := (cbcDecrypt v n s).buf
          len := BitVec.ofNat 32 (n - ((cbcDecrypt v n s).buf.read (n - 1)).toNat)
          err := 0
          sub := 0 }) := by
  unfold cbcDecryptInPlace
  by_cases hl : cipherLenBad n = true
  · exact .inl ⟨hl, by rw [if_pos hl]; rfl⟩
  · refine .inr ?_
    rw [Bool.not_eq_true] at hl
    by_cases hp : padByteBad ((cbcDecrypt v n s).buf.read (n - 1)) = true
    · refine .inl ⟨hl, hp, ?_⟩
      rw [hl]
      simp only [hp, if_true, Bool.false_eq_true, if_false, raiseError_topLevel]
      rw [cbcDecrypt_frame]
      rfl
    · rw [Bool.not_eq_true] at hp
      refine .inr ⟨hl, hp, ?_⟩
      rw [hl]
      simp only [hp, Bool.false_eq_true, if_false, completeTop_eq]
      rw [cbcDecrypt_frame]
      rfl

/-- Byte `a` of the plaintext before the padding is looked at (R188). -/
theorem read_cbcDecrypt {n : Nat} {s : State} (h : s.buf.wf) (hn : n % 16 = 0) {a : Nat}
    (ha : a < n) :
    (cbcDecrypt v n s).buf.read a =
      (xorBlock (decryptBlock (scheduleIn v (expandState s).rk)
          (s.buf.readBlock (16 * (a / 16))))
        (if a / 16 = 0 then s.iv else s.buf.readBlock (16 * (a / 16 - 1))))[a % 16]'(by omega) := by
  have hb := readBlock_cbcDecBlocks (v := v) (n / 16) 0 (s := chainFromIv (expandState s)) h (a / 16)
    (by omega)
  simp only [Nat.zero_add] at hb
  have hi : a % 16 < 16 := Nat.mod_lt _ (by decide)
  have h2 := congrArg (fun x : Block => x[a % 16]'hi) hb
  simp only [Memory.getElem_readBlock, Nat.div_add_mod] at h2
  exact h2

end Sys2Proof.Machine
end

