-- ==== Sys2Proof/Laws/Field.lean ====
section
/-! SUPPORT. `Multiply` as a sum of doubled copies of its first operand, and from it that it keeps
exclusive-or in each operand (`40_gf_multiplier.md` R110 to R113). -/

namespace Sys2Proof.Machine

@[simp] theorem xtime_zero : xtime 0 = 0 := by decide

/-- A byte added on both sides drops out. -/
theorem xor_cancel_left (a x y : Byte) : a ^^^ x ^^^ (a ^^^ y) = x ^^^ y := by
  rw [BitVec.xor_comm a x, BitVec.xor_assoc, ← BitVec.xor_assoc a a, BitVec.xor_self,
    BitVec.zero_xor]

/-- The doubling step keeps exclusive-or. -/
theorem xtime_xor (a b : Byte) : xtime (a ^^^ b) = xtime a ^^^ xtime b := by
  unfold xtime
  rw [BitVec.getLsbD_xor, BitVec.shiftLeft_xor_distrib]
  cases a.getLsbD 7 <;> cases b.getLsbD 7 <;> simp [BitVec.xor_comm, ← BitVec.xor_assoc]

/-- The copies of `a` that the bits of `b` select, summed. -/
def selectedSum : Nat → Byte → Byte → Byte
  | 0, _, _ => 0
  | n + 1, a, b => (if b.getLsbD 0 then a else 0) ^^^ selectedSum n (xtime a) (b >>> 1)

theorem run_p (n : Nat) (m : MulRegs) : (MulRegs.run n m).p = m.p ^^^ selectedSum n m.a m.b := by
  induction n generalizing m with
  | zero => simp [MulRegs.run, selectedSum]
  | succ n ih =>
    rw [MulRegs.run, ih, selectedSum]
    simp only [MulRegs.iterate]
    cases m.b.getLsbD 0 <;> simp [BitVec.xor_assoc]

theorem multiply_eq_selectedSum (a b : Byte) : multiply a b = selectedSum 8 a b := by
  rw [multiply, run_p]
  simp

theorem selectedSum_xor_left (n : Nat) (a b c : Byte) :
    selectedSum n (a ^^^ b) c = selectedSum n a c ^^^ selectedSum n b c := by
  induction n generalizing a b c with
  | zero => simp [selectedSum]
  | succ n ih =>
    rw [selectedSum, selectedSum, selectedSum, xtime_xor, ih]
    cases c.getLsbD 0
    · simp
    · simp only [if_true]
      ac_rfl

theorem selectedSum_xor_right (n : Nat) (a b c : Byte) :
    selectedSum n a (b ^^^ c) = selectedSum n a b ^^^ selectedSum n a c := by
  induction n generalizing a b c with
  | zero => simp [selectedSum]
  | succ n ih =>
    rw [selectedSum, selectedSum, selectedSum, BitVec.ushiftRight_xor_distrib, ih,
      BitVec.getLsbD_xor]
    cases b.getLsbD 0 <;> cases c.getLsbD 0
    · simp
    · simp only [Bool.false_xor, if_true, Bool.false_eq_true, if_false]
      ac_rfl
    · simp [BitVec.xor_assoc]
    · simpa using (xor_cancel_left a _ _).symm

theorem multiply_xor_left (a b c : Byte) :
    multiply (a ^^^ b) c = multiply a c ^^^ multiply b c := by
  simp only [multiply_eq_selectedSum, selectedSum_xor_left]

theorem multiply_xor_right (a b c : Byte) :
    multiply a (b ^^^ c) = multiply a b ^^^ multiply a c := by
  simp only [multiply_eq_selectedSum, selectedSum_xor_right]

@[simp] theorem multiply_zero (a : Byte) : multiply a 0 = 0 := by
  have h := multiply_xor_right a 0 0
  simpa using h

@[simp] theorem zero_multiply (a : Byte) : multiply 0 a = 0 := by
  have h := multiply_xor_left 0 0 a
  simpa using h

end Sys2Proof.Machine
end

