-- ==== Sys2Proof/Laws/HostPort.lean ====
section
/-! SUPPORT. The register map row by row (`20_memory.md` R65), and what a step does to each kind of
event. -/

namespace Sys2Proof.Machine

@[simp] theorem regAt_cmd (P : Params) : regAt P 0 = .cmd := rfl
@[simp] theorem regAt_status (P : Params) : regAt P 1 = .status := rfl
@[simp] theorem regAt_opa (P : Params) : regAt P 2 = .opa := rfl
@[simp] theorem regAt_opb (P : Params) : regAt P 3 = .opb := rfl
@[simp] theorem regAt_res (P : Params) : regAt P 4 = .res := rfl
@[simp] theorem regAt_klen (P : Params) : regAt P 5 = .klen := rfl
@[simp] theorem regAt_ivlen (P : Params) : regAt P 6 = .ivlen := rfl
@[simp] theorem regAt_mklen (P : Params) : regAt P 7 = .mklen := rfl
@[simp] theorem regAt_len (P : Params) : regAt P 8 = .len := rfl
@[simp] theorem regAt_cap (P : Params) : regAt P 9 = .cap := rfl
@[simp] theorem regAt_maclen (P : Params) : regAt P 10 = .maclen := rfl

theorem regAt_st (P : Params) (i : Fin 16) : regAt P (0x10 + i.val) = .st i := by
  unfold regAt
  repeat rw [if_neg (by omega)]
  rw [dif_pos (by omega)]
  exact congrArg Reg.st (Fin.ext (by simp))

theorem regAt_iv (P : Params) (i : Fin 16) : regAt P (0x20 + i.val) = .iv i := by
  unfold regAt
  repeat rw [if_neg (by omega)]
  rw [dif_neg (by omega), dif_pos (by omega)]
  exact congrArg Reg.iv (Fin.ext (by simp))

theorem regAt_key (P : Params) (i : Fin 32) : regAt P (0x40 + i.val) = .key i := by
  unfold regAt
  repeat rw [if_neg (by omega)]
  rw [dif_neg (by omega), dif_neg (by omega), dif_pos (by omega)]
  exact congrArg Reg.key (Fin.ext (by simp))

theorem regAt_rk (P : Params) (i : Fin 240) : regAt P (0x100 + i.val) = .rk i := by
  unfold regAt
  repeat rw [if_neg (by omega)]
  rw [dif_neg (by omega), dif_neg (by omega), dif_neg (by omega), dif_pos (by omega)]
  exact congrArg Reg.rk (Fin.ext (by simp))

theorem regAt_mkey (P : Params) (i : Fin 256) : regAt P (0x200 + i.val) = .mkey i := by
  unfold regAt
  repeat rw [if_neg (by omega)]
  rw [dif_neg (by omega), dif_neg (by omega), dif_neg (by omega), dif_neg (by omega),
    dif_pos (by omega)]
  exact congrArg Reg.mkey (Fin.ext (by simp))

theorem regAt_buf (P : Params) (i : Nat) (h : i < P.bufCap) : regAt P (0x10000 + i) = .buf i := by
  unfold regAt
  repeat rw [if_neg (by omega)]
  rw [dif_neg (by omega), dif_neg (by omega), dif_neg (by omega), dif_neg (by omega),
    dif_neg (by omega), if_pos (by omega), Nat.add_sub_cancel_left]

theorem regAt_unmapped (P : Params) (n : Nat)
    (h : (0x0B ≤ n ∧ n ≤ 0x0F) ∨ (0x30 ≤ n ∧ n ≤ 0x3F) ∨ (0x60 ≤ n ∧ n ≤ 0xFF) ∨
      (0x1F0 ≤ n ∧ n ≤ 0x1FF) ∨ (0x300 ≤ n ∧ n ≤ 0xFFFF) ∨ 0x10000 + P.bufCap ≤ n) :
    regAt P n = .unmapped := by
  unfold regAt
  repeat rw [if_neg (by omega)]
  rw [dif_neg (by omega), dif_neg (by omega), dif_neg (by omega), dif_neg (by omega),
    dif_neg (by omega)]

/-- Every number names some register of the map, or is unmapped; so the rows above are all. -/
theorem regAt_cases (P : Params) (n : Nat) :
    n ≤ 10 ∨ (∃ i : Fin 16, n = 0x10 + i.val) ∨ (∃ i : Fin 16, n = 0x20 + i.val) ∨
      (∃ i : Fin 32, n = 0x40 + i.val) ∨ (∃ i : Fin 240, n = 0x100 + i.val) ∨
      (∃ i : Fin 256, n = 0x200 + i.val) ∨ (∃ i, i < P.bufCap ∧ n = 0x10000 + i) ∨
      regAt P n = .unmapped := by
  by_cases h0 : n ≤ 10
  · exact .inl h0
  by_cases h1 : 0x10 ≤ n ∧ n ≤ 0x1F
  · exact .inr (.inl ⟨⟨n - 0x10, by omega⟩, by simp only; omega⟩)
  by_cases h2 : 0x20 ≤ n ∧ n ≤ 0x2F
  · exact .inr (.inr (.inl ⟨⟨n - 0x20, by omega⟩, by simp only; omega⟩))
  by_cases h3 : 0x40 ≤ n ∧ n ≤ 0x5F
  · exact .inr (.inr (.inr (.inl ⟨⟨n - 0x40, by omega⟩, by simp only; omega⟩)))
  by_cases h4 : 0x100 ≤ n ∧ n ≤ 0x1EF
  · exact .inr (.inr (.inr (.inr (.inl ⟨⟨n - 0x100, by omega⟩, by simp only; omega⟩))))
  by_cases h5 : 0x200 ≤ n ∧ n ≤ 0x2FF
  · exact .inr (.inr (.inr (.inr (.inr (.inl ⟨⟨n - 0x200, by omega⟩, by simp only; omega⟩)))))
  by_cases h6 : 0x10000 ≤ n ∧ n - 0x10000 < P.bufCap
  · exact .inr (.inr (.inr (.inr (.inr (.inr (.inl ⟨n - 0x10000, h6.2, by omega⟩))))))
  · exact .inr (.inr (.inr (.inr (.inr (.inr (.inr (regAt_unmapped P n (by omega))))))))

/-! ## A step, by the event it serves -/

theorem step_idle {s : State} (h : s.pending = []) : step s = .next s := by
  simp only [step, serveNext, h]

theorem step_read {s : State} {n : Word32} {rest : List HostEvent}
    (h : s.pending = .read n :: rest) :
    step s =
      .next { s with
        pending := rest
        readData := s.readData ++ [hostRead Config.params n { s with pending := rest }] } := by
  simp only [step, serveNext, h, hostEvent]

theorem step_write {s : State} {n v : Word32} {rest : List HostEvent}
    (h : s.pending = .write n v :: rest) (hn : n ≠ 0) :
    step s = .next (setReg (regAt Config.params n.toNat) v { s with pending := rest }) := by
  simp only [step, serveNext, h, hostEvent, hn, if_false, hostWrite]

theorem step_command {s : State} {v : Word32} {rest : List HostEvent}
    (h : s.pending = .write 0 v :: rest) :
    step s = writeCmd v { s with pending := rest } := by
  simp only [step, serveNext, h, hostEvent, if_true]

theorem step_reset {s : State} {rest : List HostEvent} (h : s.pending = .reset :: rest) :
    step s = .next (resetCore { s with pending := rest }) := by
  simp only [step, serveNext, h, hostEvent]

end Sys2Proof.Machine
end

