-- ==== Sys2Proof/Laws/PerInstr.lean ====
section
/-! SUPPORT. What holds of every command as syntax, one lemma per constructor: family `MatchMask`,
the word of a command under its mask is its match word, and its ZERO field is 0
(`30_encoding.md` R90, R93). -/

namespace Sys2Proof.Laws.MatchMask

/-- The bits of a word that select the command: all but RND for ADDRK, all for every other (R93). -/
def mask : Instr → CmdWord
  | .addrk _ => 0xF0FF
  | .nop | .zeroize | .gfmul | .subbF | .subbI | .subsF | .subsI | .shrF | .shrI | .mixcF
  | .mixcI | .kexp | .encb | .decb | .pad | .unpad | .cbcenc | .cbcdec | .sealContainer
  | .openContainer => 0xFFFF

/-- The masked word of a command is its opcode with nothing above it. -/
def Statement (i : Instr) : Prop :=
  i.wellFormed = true → encode i &&& mask i = i.opcode.zeroExtend 16 ∧ zeroField (encode i) = 0

theorem nop : Statement .nop := by unfold Statement; decide
theorem zeroize : Statement .zeroize := by unfold Statement; decide
theorem gfmul : Statement .gfmul := by unfold Statement; decide
theorem subbF : Statement .subbF := by unfold Statement; decide
theorem subbI : Statement .subbI := by unfold Statement; decide
theorem subsF : Statement .subsF := by unfold Statement; decide
theorem subsI : Statement .subsI := by unfold Statement; decide
theorem shrF : Statement .shrF := by unfold Statement; decide
theorem shrI : Statement .shrI := by unfold Statement; decide
theorem mixcF : Statement .mixcF := by unfold Statement; decide
theorem mixcI : Statement .mixcI := by unfold Statement; decide

theorem addrk (r : Nat) : Statement (.addrk r) := by
  intro _
  have h : ∀ n : BitVec 4, (0#4 ++ n ++ 0x34#8) &&& 0xF0FF#16 = (0x34#8).zeroExtend 16 ∧
      (0#4 ++ n ++ 0x34#8).extractLsb' 12 4 = 0#4 := by decide
  exact h (BitVec.ofNat 4 r)

theorem kexp : Statement .kexp := by unfold Statement; decide
theorem encb : Statement .encb := by unfold Statement; decide
theorem decb : Statement .decb := by unfold Statement; decide
theorem pad : Statement .pad := by unfold Statement; decide
theorem unpad : Statement .unpad := by unfold Statement; decide
theorem cbcenc : Statement .cbcenc := by unfold Statement; decide
theorem cbcdec : Statement .cbcdec := by unfold Statement; decide
theorem sealContainer : Statement .sealContainer := by unfold Statement; decide
theorem openContainer : Statement .openContainer := by unfold Statement; decide

end Sys2Proof.Laws.MatchMask
end

