-- ==== Sys2Proof/Tests/Slice0.lean ====
section
/-! SUPPORT. Tests of the model. The expected values are the spec's: the examples of its rules, the
words of R93, and the vectors of `95_test_vectors.md`. The theorems named witness_<Name> show a
state and operands that meet the hypotheses of Obligations.<Name>. -/

namespace Sys2Proof.Tests

open Sys2Proof.Machine Sys2Proof.Claims

/-! ## Helpers -/

/-- The next state, where there is one. -/
def nextState : Host.Outcome State Fault Refusal → Option State
  | .next t => some t
  | .fault _ => none
  | .refused _ => none

/-- A block from its bytes. -/
def block (l : List Byte) : Block := Vector.ofFn fun i => l.getD i.val 0

/-- STATUS and ST after a command. -/
def statusAndSt (i : Instr) (s : State) : Option (BitVec 16 × Block) :=
  (nextState (exec i s)).map fun t => (statusWord t, t.st)

/-- STATUS and RES after a command. -/
def statusAndRes (i : Instr) (s : State) : Option (BitVec 16 × Byte) :=
  (nextState (exec i s)).map fun t => (statusWord t, t.res)

/-- A stale error, which a success must clear. -/
def stale : State := { State.reset with err := 6 }

/-- MacToy (`95_test_vectors.md` section 0). -/
def macToy (k m : List Byte) : List Byte :=
  (List.range 20).map fun j =>
    (List.range m.length).foldl (fun x i => if i % 20 = j then x ^^^ m.getD i 0 else x) 0 ^^^
      k.getD (j % k.length) 0 ^^^ BitVec.ofNat 8 (m.length + j)

/-- Parameters a test can evaluate. -/
def toy : Params := { bufCap := 64, macLen := 20, mac := macToy }

/-! ## Well-formedness -/

theorem test_addrk_16_is_ill_formed : Instr.wellFormed (.addrk 16) = false := by decide

theorem test_addrk_15_is_well_formed : Instr.wellFormed (.addrk 15) = true := by decide

/-! ## Decoding: every constructor from its word, written out from R90 and R93 -/

theorem test_decode_system :
    decode 0b0000000000000000 = .ok .nop ∧ decode 0b0000000000000001 = .ok .zeroize := by decide

theorem test_decode_field : decode 0b0000000000010000 = .ok .gfmul := by decide

theorem test_decode_substitution :
    decode 0b0000000000100000 = .ok .subbF ∧ decode 0b0000000000100001 = .ok .subbI ∧
    decode 0b0000000000100010 = .ok .subsF ∧ decode 0b0000000000100011 = .ok .subsI := by decide

theorem test_decode_row_column :
    decode 0b0000000000110000 = .ok .shrF ∧ decode 0b0000000000110001 = .ok .shrI ∧
    decode 0b0000000000110010 = .ok .mixcF ∧ decode 0b0000000000110011 = .ok .mixcI := by decide

theorem test_decode_block_engine :
    decode 0b0000101000110100 = .ok (.addrk 10) ∧ decode 0b0000111100110100 = .ok (.addrk 15) ∧
    decode 0b0000000001000000 = .ok .kexp ∧ decode 0b0000000001010000 = .ok .encb ∧
    decode 0b0000000001010001 = .ok .decb := by decide

theorem test_decode_cbc :
    decode 0b0000000001100000 = .ok .pad ∧ decode 0b0000000001100001 = .ok .unpad ∧
    decode 0b0000000001100010 = .ok .cbcenc ∧ decode 0b0000000001100011 = .ok .cbcdec := by decide

theorem test_decode_container :
    decode 0b0000000001110000 = .ok .sealContainer ∧
    decode 0b0000000001110001 = .ok .openContainer := by decide

theorem test_decode_refuses :
    decode 0x1034 = .error .zeroFieldSet ∧ decode 0x0002 = .error .unassignedOpcode ∧
    decode 0x0110 = .error .rndFieldSet ∧ decode 0xFFFF = .error .zeroFieldSet := by decide

theorem test_decode_table_word :
    decodeTableWord 16 0x0034 = some (.addrk 0) ∧ decodeTableWord 16 0x0011 = none := by decide

/-! ## The host interface -/

/-- A state whose files hold a different byte in each place a read is tried. -/
def sample : State :=
  { State.reset with
    opa := 1
    opb := 2
    res := 3
    klen := 4
    ivlen := 5
    mklen := 0x0607
    len := 0x08090A0B
    err := 7
    rkv := true
    nr := 10
    buf := [(0, 0x22), (63, 0x33)] }

theorem test_read_scalars :
    (List.range 16).map (fun n => (hostRead toy (BitVec.ofNat 32 n) sample).toNat) =
      [0, 0x0A87, 1, 2, 3, 4, 5, 0x0607, 0x08090A0B, 64, 20, 0, 0, 0, 0, 0] := by decide

theorem test_read_file_bounds :
    hostRead toy 0x1F { sample with st := sample.st.set 15 9 } = 9 ∧
    hostRead toy 0x2F { sample with iv := sample.iv.set 15 9 } = 9 ∧
    hostRead toy 0x5F { sample with key := sample.key.set 31 9 } = 9 ∧
    hostRead toy 0x1EF { sample with rk := sample.rk.set 239 9 } = 9 ∧
    hostRead toy 0x2FF { sample with mkey := sample.mkey.set 255 9 } = 9 ∧
    hostRead toy 0x10000 sample = 0x22 ∧ hostRead toy 0x1003F sample = 0x33 ∧
    hostRead toy 0x10040 sample = 0 := by decide +kernel

theorem test_read_unmapped :
    [0x0B, 0x0F, 0x30, 0x3F, 0x60, 0xFF, 0x1F0, 0x1FF, 0x300, 0xFFFF, 0x10040, 0xFFFFFFFF].all
      (fun n => regAt toy n = .unmapped) = true := by decide

theorem test_write_truncates :
    (hostWrite toy 5 0x110 State.reset).klen = 0x10 ∧
    (hostWrite toy 8 0xFFFFFFFF State.reset).len = 0xFFFFFFFF ∧
    (hostWrite toy 7 0x10100 State.reset).mklen = 0x0100 := by decide

theorem test_write_read_only :
    [0x1, 0x4, 0x9, 0xA, 0x100, 0x1EF].all (fun n => hostWrite toy n 0xFF sample = sample) =
      true := by decide +kernel

theorem test_cmd_drops_the_upper_half :
    writeCmd 0x10010 { State.reset with opa := 0x57, opb := 0x83 } =
      exec .gfmul { State.reset with opa := 0x57, opb := 0x83 } := rfl

theorem test_step_runs_the_fetched_word :
    (nextState (step ({ State.reset with opa := 0x53 }.withFetchWord 16 0x0020))).map (·.res) =
      some 0xed := by decide

theorem test_step_illegal_word :
    (nextState (step (State.reset.withFetchWord 16 0x0110))).map statusWord = some 0x0006 := by
  decide

/-! ## The commands -/

theorem test_nop_clears_the_error :
    (nextState (exec .nop { State.reset with err := 7, rkv := true, nr := 10 })).map statusWord =
      some 0x0A80 := by decide

theorem test_zeroize :
    (nextState (exec .zeroize { sample with iv := Vector.replicate 16 1 }) = some State.reset) := by
  decide +kernel

theorem test_gfmul :
    statusAndRes .gfmul { stale with opa := 0x57, opb := 0x83 } = some (0, 0xc1) ∧
    statusAndRes .gfmul { stale with opa := 0x80, opb := 0x80 } = some (0, 0x9a) := by decide

theorem test_subb :
    statusAndRes .subbF { stale with opa := 0x53 } = some (0, 0xed) ∧
    statusAndRes .subbI { stale with opa := 0x63 } = some (0, 0x00) := by decide

/-- The state of the examples of R128 and R129. -/
def plainState : Block :=
  block [0x00, 0x11, 0x22, 0x33, 0x44, 0x55, 0x66, 0x77, 0x88, 0x99, 0xaa, 0xbb, 0xcc, 0xdd, 0xee,
    0xff]

theorem test_subs :
    statusAndSt .subsF { stale with st := plainState } =
      some (0, block [0x63, 0x82, 0x93, 0xc3, 0x1b, 0xfc, 0x33, 0xf5, 0xc4, 0xee, 0xac, 0xea, 0x4b,
        0xc1, 0x28, 0x16]) ∧
    statusAndSt .subsI { stale with st := plainState } =
      some (0, block [0x52, 0xe3, 0x94, 0x66, 0x86, 0xed, 0xd3, 0x02, 0x97, 0xf9, 0x62, 0xfe, 0x27,
        0xc9, 0x99, 0x7d]) := by decide +kernel

/-- The state of the examples of R141 and R142. -/
def countingState : Block := block [0, 1, 2, 3, 4, 5, 6, 7, 8, 9, 10, 11, 12, 13, 14, 15]

theorem test_shr :
    statusAndSt .shrF { stale with st := countingState } =
      some (0, block [0, 5, 10, 15, 4, 9, 14, 3, 8, 13, 2, 7, 12, 1, 6, 11]) ∧
    statusAndSt .shrI { stale with st := countingState } =
      some (0, block [0, 13, 10, 7, 4, 1, 14, 11, 8, 5, 2, 15, 12, 9, 6, 3]) := by decide +kernel

/-- The states of the examples of R143 and R144. -/
def beforeMix : Block :=
  block [0xd4, 0xbf, 0x5d, 0x30, 0xe0, 0xb4, 0x52, 0xae, 0xb8, 0x41, 0x11, 0xf1, 0x1e, 0x27, 0x98,
    0xe5]

/-- The same, mixed. -/
def afterMix : Block :=
  block [0x04, 0x66, 0x81, 0xe5, 0xe0, 0xcb, 0x19, 0x9a, 0x48, 0xf8, 0xd3, 0x7a, 0x28, 0x06, 0x26,
    0x4c]

theorem test_mixc :
    statusAndSt .mixcF { stale with st := beforeMix } = some (0, afterMix) ∧
    statusAndSt .mixcI { stale with st := afterMix } = some (0, beforeMix) := by decide +kernel

/-- The key of the examples of R156 and R194. -/
def exampleKey : List Byte :=
  [0x2b, 0x7e, 0x15, 0x16, 0x28, 0xae, 0xd2, 0xa6, 0xab, 0xf7, 0x15, 0x88, 0x09, 0xcf, 0x4f, 0x3c]

/-- KEY and KLEN hold a key. -/
def withKey (k : List Byte) (s : State) : State :=
  { s with key := Vector.ofFn fun i => k.getD i.val 0, klen := BitVec.ofNat 8 k.length }

theorem test_kexp :
    (nextState (exec .kexp (withKey exampleKey stale))).map (fun t =>
        (statusWord t, roundKey t.rk 1, roundKey t.rk 10, t.rk[176])) =
      some (0x0A80,
        block [0xa0, 0xfa, 0xfe, 0x17, 0x88, 0x54, 0x2c, 0xb1, 0x23, 0xa3, 0x39, 0x39, 0x2a, 0x6c,
          0x76, 0x05],
        block [0xd0, 0x14, 0xf9, 0xa8, 0xc9, 0xee, 0x25, 0x89, 0xe1, 0x3f, 0x0c, 0xc8, 0xb6, 0x63,
          0x0c, 0xa6], 0) := by decide +kernel

theorem test_kexp_keeps_the_schedule_on_an_error :
    (nextState (exec .kexp { State.reset with klen := 17, rkv := true, nr := 10 })).map statusWord =
      some 0x0A91 := by decide

theorem test_addrk :
    statusAndSt (.addrk 1)
        { stale with rkv := true, nr := 10, rk := Vector.ofFn fun i => BitVec.ofNat 8 i.val } =
      some (0x0A80, block [16, 17, 18, 19, 20, 21, 22, 23, 24, 25, 26, 27, 28, 29, 30, 31]) ∧
    statusAndSt (.addrk 11) { State.reset with rkv := true, nr := 10 } =
      some (0x0A87, Vector.replicate 16 0) := by decide +kernel

/-- The all-zero key of K-Z128. -/
def zeroKey : List Byte := List.replicate 16 0

/-- The all-zero block under it, V-Z128. -/
def zeroCipher : Block :=
  block [0x66, 0xe9, 0x4b, 0xd4, 0xef, 0x8a, 0x2c, 0x3b, 0x88, 0x4c, 0xfa, 0x59, 0xca, 0x34, 0x2b,
    0x2e]

/-- V-Z128, backward. -/
theorem zeroCipher_deciphers :
    decryptBlock (scheduleIn .aes128 (expandKey zeroKey)) zeroCipher = Vector.replicate 16 0 := by decide +kernel

/-- V-Z128, forward. -/
theorem test_encb :
    statusAndSt .encb { stale with rkv := true, nr := 10, rk := expandKey zeroKey } =
      some (0x0A80, zeroCipher) := by decide +kernel

theorem test_decb :
    statusAndSt .decb { stale with rkv := true, nr := 10, rk := expandKey zeroKey, st := zeroCipher } =
      some (0x0A80, Vector.replicate 16 0) := by
  show some (statusWord _, decryptBlock (scheduleIn .aes128 (expandKey zeroKey)) zeroCipher) = _
  rw [zeroCipher_deciphers]
  rfl

theorem test_block_commands_need_a_schedule :
    (nextState (exec .encb State.reset)).map statusWord = some 0x0007 ∧
    (nextState (exec .decb State.reset)).map statusWord = some 0x0007 := by decide

/-- What a test looks at after PAD. -/
def padView (t : State) : BitVec 16 × Word32 × List Byte :=
  (statusWord t, t.len, t.buf.readBytes 3 14)

theorem test_pad :
    padView (padCommand toy
        { stale with buf := [(0, 0x11), (1, 0x11), (2, 0x11), (3, 0x11), (4, 0x11)], len := 5 }) =
      (0, 16, [0x11, 0x11, 0x0b, 0x0b, 0x0b, 0x0b, 0x0b, 0x0b, 0x0b, 0x0b, 0x0b, 0x0b, 0x0b, 0]) ∧
    statusWord (padCommand toy { State.reset with len := 64 }) = 0x0041 := by decide +kernel

theorem test_unpad :
    (unpadCommand toy { stale with buf := [(15, 1)], len := 16 }).len = 15 ∧
    statusWord (unpadCommand toy { State.reset with buf := [(15, 0x11)], len := 16 }) = 0x0003 ∧
    statusWord (unpadCommand toy { State.reset with buf := [(15, 1)], len := 15 }) = 0x0002 := by
  decide

theorem test_cbcenc_errors_in_order :
    statusWord (cbcencCommand toy State.reset) = 0x0011 ∧
    statusWord (cbcencCommand toy { State.reset with klen := 16 }) = 0x0021 ∧
    statusWord (cbcencCommand toy { State.reset with klen := 16, ivlen := 16, len := 64 }) =
      0x0041 := by decide +kernel

/-- What a test looks at after SEAL. -/
def sealView (t : State) : List Nat × List Byte :=
  ([(statusWord t).toNat, t.len.toNat, t.klen.toNat, t.mklen.toNat, t.ivlen.toNat],
    t.buf.readBytes 0 8 ++ t.buf.readBytes 16 17 ++ t.buf.readBytes 48 5)

/-- The SEAL example of R214: with LEN = 0, 52 bytes, the IV kept and the keys gone. -/
theorem test_seal :
    sealView (sealCommand toy
        { withKey exampleKey stale with
          iv := countingState
          ivlen := 16
          mkey := Vector.replicate 256 0x0b
          mklen := 20 }) =
      ([0, 52, 0, 0, 16],
        [0xc8, 0x4a, 0xf0, 0xb6, 0x13, 0x43, 0x5d, 0x5d] ++
          [0, 1, 2, 3, 4, 5, 6, 7, 8, 9, 10, 11, 12, 13, 14, 15, 0xe7] ++
          [0x3b, 0x3b, 0x3b, 0x3b, 0]) := by decide +kernel

theorem test_open_errors_in_order :
    statusWord (openCommand toy { State.reset with klen := 16 }) = 0x0031 ∧
    statusWord (openCommand toy { State.reset with klen := 16, mklen := 20, len := 35 }) = 0x0002 ∧
    statusWord (openCommand toy { State.reset with klen := 16, mklen := 20, len := 52 }) =
      0x0004 := by decide +kernel

/-! ## Witnesses: a state and operands that meet the hypotheses of each obligation -/

theorem witness_DecodeInvertsEncode :
    Instr.wellFormed (.addrk 0) = true ∧ Instr.wellFormed (.addrk 15) = true ∧
    Instr.wellFormed .openContainer = true := by decide

theorem witness_DecodeFollowsTheThreeTests :
    (0x1010#16).toNat / 4096 ≠ 0 ∧
    ((0x0011#16).toNat % 256 ∉ plainOpcodes ∧ (0x0011#16).toNat % 256 ≠ 0x34) ∧
    ((0x0110#16).toNat % 256 ≠ 0x34 ∧ (0x0110#16).toNat / 256 % 16 ≠ 0) ∧
    ((0x0F34#16).toNat / 4096 = 0 ∧ (0x0F34#16).toNat % 256 = 0x34) ∧
    ((0x0071#16).toNat / 4096 = 0 ∧ (0x0071#16).toNat % 256 ∈ plainOpcodes ∧
      (0x0071#16).toNat / 256 % 16 = 0) := by decide

theorem witness_DecodeAgreesWithMatchAndMask :
    plainRow 0x0010#16 .gfmul ∈ commandTable ∧ plainRow 0x0071#16 .openContainer ∈ commandTable := by
  simp [commandTable]

theorem witness_StepRunsTheWrittenCommand :
    ({ State.reset with pending := [.write 0 0xFFFF0010] } : State).pending =
        [.write 0 0xFFFF0010] ∧
      decode (BitVec.ofNat 16 ((0xFFFF0010#32).toNat % 65536)) = .ok .gfmul ∧
      decodeTableWord 16 0x0A34 = some (.addrk 10) ∧
      ({ State.reset with pending := [.write 2 0x57, .read 2] } : State).pending =
        .write 2 0x57 :: [.read 2] ∧
      State.reset.pending = [] := by decide

/-- A value of CMD that carries no legal word. -/
theorem illegal_0110 : IllegalValue 0x0110 := by
  unfold IllegalValue
  decide

theorem witness_IllegalWordRaisesIllegalCommand :
    State.reset.hidden = Hidden.idle ∧ IllegalValue 0x0110 ∧ IllegalValue 0x00001034 ∧
      IllegalValue 0xFFFF0002 := by
  refine ⟨rfl, illegal_0110, ?_, ?_⟩ <;> unfold IllegalValue <;> decide

theorem witness_HostReadReturnsTheNamedRegister :
    ({ State.reset with pending := [.read 1] } : State).pending = [.read 1] ∧ Unmapped 0x0B ∧
      Unmapped 0xFFFF ∧ Unmapped (0x10000 + Config.params.bufCap) ∧
      (0x1F#32).toNat = 0x10 + (15 : Fin 16).val ∧ (0x2F#32).toNat = 0x20 + (15 : Fin 16).val ∧
      (0x5F#32).toNat = 0x40 + (31 : Fin 32).val ∧ (0x1EF#32).toNat = 0x100 + (239 : Fin 240).val ∧
      (0x2FF#32).toNat = 0x200 + (255 : Fin 256).val ∧ 0 < Config.params.bufCap ∧
      (BitVec.ofNat 32 (0x10000 + (Config.params.bufCap - 1))).toNat =
        0x10000 + (Config.params.bufCap - 1) := by
  have h1 := Config.bufCap_ge_33
  have h2 := Config.bufCap_le
  refine ⟨rfl, ?_, ?_, ?_, rfl, rfl, rfl, rfl, rfl, by omega, ?_⟩
  · unfold Unmapped; omega
  · unfold Unmapped; omega
  · unfold Unmapped; omega
  · rw [BitVec.toNat_ofNat]; omega

/-- No number falls under two clauses of HostReadReturnsTheNamedRegister or of
HostWriteSetsOneRegister: an unmapped number is in none of the ranges, and no range meets another. -/
theorem register_ranges_are_apart (n : Nat) (h : Unmapped n) :
    10 < n ∧ ¬(0x10 ≤ n ∧ n ≤ 0x1F) ∧ ¬(0x20 ≤ n ∧ n ≤ 0x2F) ∧ ¬(0x40 ≤ n ∧ n ≤ 0x5F) ∧
      ¬(0x100 ≤ n ∧ n ≤ 0x1EF) ∧ ¬(0x200 ≤ n ∧ n ≤ 0x2FF) ∧
      ¬(0x10000 ≤ n ∧ n < 0x10000 + Config.params.bufCap) := by
  unfold Unmapped at h
  omega

theorem witness_HostWriteSetsOneRegister :
    ReadOnly 1 ∧ ReadOnly 0x100 ∧ ReadOnly 0x1EF ∧ Unmapped 0x30 ∧ Unmapped 0x300 ∧
      (BitVec.ofNat 32 0x10000).toNat = 0x10000 + 0 ∧ 0 < Config.params.bufCap ∧
      decode (BitVec.ofNat 16 ((0xFFFF0010#32).toNat % 65536)) = .ok .gfmul := by
  have := Config.bufCap_ge_33
  refine ⟨?_, ?_, ?_, ?_, ?_, rfl, by omega, rfl⟩
  · unfold ReadOnly; omega
  · unfold ReadOnly; omega
  · unfold ReadOnly; omega
  · unfold Unmapped; omega
  · unfold Unmapped; omega

theorem witness_BufWriteThenRead :
    State.reset.buf.wf ∧ 0 < Config.params.bufCap ∧
      Config.params.bufCap - 1 < Config.params.bufCap ∧ Config.params.bufCap - 1 ≠ 0 := by
  have := Config.bufCap_ge_33
  exact ⟨wf_reset, by omega, by omega, by omega⟩

theorem witness_PseudoCommandsLoadTheirFile :
    (List.replicate 32 (1 : Byte)).length ≤ 32 ∧ (List.replicate 16 (1 : Byte)).length ≤ 16 ∧
      (List.replicate 256 (1 : Byte)).length ≤ 256 ∧ State.reset.buf.wf ∧
      (List.replicate Config.params.bufCap (1 : Byte)).length ≤ Config.params.bufCap := by
  simp only [List.length_replicate, le_refl, true_and, and_true]
  exact wf_reset

theorem witness_ResetClearsEveryRegister :
    (0#32 ≠ 9 ∧ 0#32 ≠ 10) ∧ (0x5F#32 ≠ 9 ∧ 0x5F#32 ≠ 10) ∧
      Instr.openContainer ∈ Instr.kexp :: topLevel := by decide

theorem witness_ResetInputGivesTheResetState :
    ({ sample with pending := [.reset, .read 1] } : State).pending = .reset :: [.read 1] := rfl

theorem witness_NopOnlyClearsTheError :
    (nextState (exec .nop sample)).isSome = true ∧ statusWord sample = 0x0A87 := by decide

theorem witness_MultiplyIsAField : (0x02 : Byte) ≠ 0 ∧ (0xFF : Byte) ≠ 0 := by decide

theorem witness_XtimeIsMultiplyByTwo : 1 ≤ 14 ∧ 14 ≤ 14 := by decide

theorem witness_GfmulWritesTheProduct :
    sample.hidden = Hidden.idle ∧
      (nextState (exec .gfmul { sample with opa := 0x57, opb := 0x83 })).isSome = true ∧
      (nextState (exec .gfmul { sample with opa := 0x80, opb := 0x80 })).isSome = true ∧
      (nextState (exec .gfmul { sample with opa := 0 })).isSome = true := by decide

theorem witness_SboxIsTheAffineInverse : multiply 0x53 0xca = 0x01 := by decide

theorem witness_SubbWritesTheTableEntry :
    ({ sample with opa := 0x53 } : State).opa = 0x53 ∧ ({ sample with opa := 0xed } : State).opa = 0xed :=
  ⟨rfl, rfl⟩

theorem witness_SubsMapsEveryByte : State.reset.st = Vector.replicate 16 0x00 := rfl

/-- Four equal columns. -/
def equalColumns : Block := block [1, 2, 3, 4, 1, 2, 3, 4, 1, 2, 3, 4, 1, 2, 3, 4]

theorem witness_ShrPermutesTheBytes :
    (∀ i, i < 12 → byteOf equalColumns (i + 4) = byteOf equalColumns i) ∧ (10 < 16 ∧ 10 % 4 = 2) := by
  decide

theorem witness_MixcMultipliesByTheMatrix :
    sample.hidden = Hidden.idle ∧ 3 < 4 := by decide

theorem witness_MixColumnsWithXtime :
    3 < 4 ∧ ∀ k, k < 4 → byteOf (block (List.replicate 16 7)) (4 * 3 + k) = 7 := by decide

/-- A state with KLEN, IVLEN and MKLEN, and all else as after reset. -/
def withLengths (k i : Byte) (m : BitVec 16) : State :=
  { State.reset with klen := k, ivlen := i, mklen := m }

theorem witness_KexpExpandsTheKey :
    KeyOk (withLengths 16 0 0) ∧ KeyOk (withLengths 24 0 0) ∧ KeyOk (withLengths 32 0 0) ∧
      ¬KeyOk (withLengths 0 0 0) ∧ ¬KeyOk (withLengths 17 0 0) ∧ ¬KeyOk (withLengths 255 0 0) ∧
      (withLengths 17 0 0).hidden = Hidden.idle := by decide

/-- A state that holds the schedule of a zero key, for `n` rounds. -/
def scheduled (n : BitVec 4) : State :=
  { State.reset with
    rkv := true
    nr := n
    rk := expandKey (List.replicate (4 * (n.toNat - 6)) 0) }

theorem witness_AddrkAddsTheRoundKey :
    (ScheduleOk (scheduled 10) ∧ 10 ≤ (scheduled 10).nr.toNat) ∧
      (ScheduleOk (scheduled 12) ∧ 0 ≤ (scheduled 12).nr.toNat) ∧
      (ScheduleOk (scheduled 14) ∧ 14 ≤ (scheduled 14).nr.toNat) ∧
      (scheduled 14).nr.toNat < 15 ∧ State.reset.rkv = false ∧
      State.reset.hidden = Hidden.idle := by decide

theorem witness_BlockCommandsTransformSt :
    ((scheduled 10).rkv = true ∧ (scheduled 10).nr.toNat = Variant.aes128.rounds) ∧
      (scheduled 12).nr.toNat = Variant.aes192.rounds ∧
      (scheduled 14).nr.toNat = Variant.aes256.rounds ∧ (scheduled 14).hidden = Hidden.idle ∧
      State.reset.rkv = false ∧ State.reset.hidden = Hidden.idle := by decide

theorem witness_BlockCommandsEqualTheirPrimitives :
    ScheduleOk (scheduled 12) ∧ (scheduled 12).hidden = Hidden.idle := by decide

theorem witness_SequencerRunsOneBlock :
    (scheduled 14).rkv = true ∧ (scheduled 14).nr.toNat = Variant.aes256.rounds ∧
      0 ≤ Variant.aes256.rounds ∧ 14 ≤ Variant.aes256.rounds := by decide

theorem witness_SequencerRunsTheBlockLoop :
    (scheduled 10).rkv = true ∧ (scheduled 10).nr.toNat = Variant.aes128.rounds ∧
      1 ≤ 1 ∧ 1 < 2 ^ 28 ∧ 1 ≤ 2 ^ 28 - 1 ∧ 2 ^ 28 - 1 < 2 ^ 28 := by decide

theorem witness_BlockCommandsIgnoreTheKeyRegisters :
    (∃ r, Instr.addrk 15 = .addrk r) ∧ Instr.decb = .decb := ⟨⟨15, rfl⟩, rfl⟩

theorem witness_PadAppendsThePadBytes :
    (State.reset.buf.wf ∧ paddedLen State.reset ≤ Config.params.bufCap) ∧
      Config.params.bufCap < paddedLen { State.reset with len := 0xFFFFFFFF } ∧
      State.reset.hidden = Hidden.idle := by
  have h1 := Config.bufCap_ge_33
  have h2 := Config.bufCap_le
  refine ⟨⟨wf_reset, ?_⟩, ?_, rfl⟩
  · show 0 + 16 ≤ _
    omega
  · show _ < 4294967295 + 1
    omega

/-- A buffer of one block whose last byte is `b`. -/
def lastByte (b : Byte) : State := { State.reset with len := 16, buf := Memory.write [] 15 b }

theorem witness_UnpadRemovesThePadLength :
    Config.params.bufCap < ({ State.reset with len := 0xFFFFFFFF } : State).len.toNat ∧
      (0 ≤ Config.params.bufCap ∧ State.reset.len.toNat = 0) ∧
      (17 ≤ Config.params.bufCap ∧ 17 % 16 ≠ 0) ∧
      (lastByte 0).len.toNat ≤ Config.params.bufCap ∧ (lastByte 0).len.toNat ≠ 0 ∧
      (lastByte 0).len.toNat % 16 = 0 ∧ ((lastByte 0).buf.read (16 - 1)).toNat = 0 ∧
      ((lastByte 17).buf.read (16 - 1)).toNat = 17 ∧ ((lastByte 1).buf.read (16 - 1)).toNat = 1 ∧
      ((lastByte 16).buf.read (16 - 1)).toNat = 16 ∧ (lastByte 16).hidden = Hidden.idle := by
  have h1 := Config.bufCap_ge_33
  have h2 := Config.bufCap_le
  refine ⟨?_, ⟨by omega, rfl⟩, ⟨by omega, by decide⟩, ?_, ?_, rfl, rfl, rfl, rfl, rfl, rfl⟩
  · show _ < 4294967295
    omega
  · show 16 ≤ _
    omega
  · decide

theorem witness_UnpadInvertsPad :
    State.reset.buf.wf ∧ State.reset.hidden = Hidden.idle ∧
      paddedLen State.reset ≤ Config.params.bufCap :=
  ⟨wf_reset, rfl, witness_PadAppendsThePadBytes.1.2⟩

/-- LEN so great that no buffer holds it. -/
def tooLong (k i : Byte) (m : BitVec 16) : State := { withLengths k i m with len := 0xFFFFFFFF }

theorem bufCap_lt_tooLong (k i : Byte) (m : BitVec 16) :
    Config.params.bufCap < (tooLong k i m).len.toNat := by
  have := Config.bufCap_le
  show _ < 4294967295
  omega

theorem bufCap_lt_paddedLen_tooLong (k i : Byte) (m : BitVec 16) :
    Config.params.bufCap < paddedLen (tooLong k i m) :=
  Nat.lt_of_lt_of_le (bufCap_lt_tooLong k i m) (Nat.le_add_right _ _)

theorem paddedLen_withLengths (k i : Byte) (m : BitVec 16) : paddedLen (withLengths k i m) = 16 := rfl

theorem witness_CbcencChainsTheBlocks :
    ¬KeyOk State.reset ∧ (KeyOk (withLengths 16 0 0) ∧ (withLengths 16 0 0).ivlen.toNat ≠ 16) ∧
      (KeyOk (withLengths 16 17 0) ∧ (withLengths 16 17 0).ivlen.toNat ≠ 16) ∧
      (KeyOk (tooLong 16 16 0) ∧ (tooLong 16 16 0).ivlen.toNat = 16 ∧
        Config.params.bufCap < paddedLen (tooLong 16 16 0)) ∧
      ((withLengths 32 16 0).buf.wf ∧ KeyOk (withLengths 32 16 0) ∧
        (withLengths 32 16 0).ivlen.toNat = 16 ∧
        paddedLen (withLengths 32 16 0) ≤ Config.params.bufCap ∧
        0 < paddedLen (withLengths 32 16 0) / 16) := by
  have h := Config.bufCap_ge_33
  refine ⟨by decide, by decide, by decide, ⟨by decide, rfl, bufCap_lt_paddedLen_tooLong _ _ _⟩,
    wf_reset, by decide, rfl, ?_, by decide⟩
  rw [paddedLen_withLengths]
  omega

/-- The ciphertext of a block that deciphers to `iv`, for the zero key. -/
def cipherState (iv : Block) : State :=
  { withLengths 16 16 0 with iv := iv, len := 16, buf := Memory.writeBlock [] 0 zeroCipher }

/-- An IV whose last byte is `b`. -/
def ivEnding (b : Byte) : Block := (Vector.replicate 16 0).set 15 b

/-- What a zero-key ciphertext of V-Z128 deciphers to: its IV. -/
theorem recoveredByte_zeroCipher {s : State} {iv : Block} {a : Nat} (hk : keyBytes s = zeroKey)
    (hr : s.klen = 16) (hb : blockOf s.buf.read 0 = zeroCipher) (ha : a < 16) :
    recoveredByte s iv a = byteOf iv a := by
  have h0 : xorBlock (Vector.replicate 16 0) iv = iv := by
    ext i hi
    simp
  have hd : decryptBlock (scheduleOf s) zeroCipher = Vector.replicate 16 0 := by
    have hv : variantOf s = .aes128 := if_pos (by rw [hr]; rfl)
    unfold scheduleOf
    rw [hv, hk, zeroCipher_deciphers]
  rw [recoveredByte, recoveredBlock, Nat.div_eq_of_lt ha, Nat.mod_eq_of_lt ha, hb, hd, chainBefore,
    if_pos rfl, h0]

theorem blockOf_zeroCipher : blockOf (Memory.read (Memory.writeBlock [] 0 zeroCipher)) 0 = zeroCipher := by
  decide +kernel

theorem recoveredByte_cipherState (iv : Block) :
    recoveredByte (cipherState iv) (cipherState iv).iv ((cipherState iv).len.toNat - 1) =
      byteOf iv 15 :=
  recoveredByte_zeroCipher (s := cipherState iv) (by rfl) rfl blockOf_zeroCipher (show (16#32).toNat - 1 < 16 by decide)

theorem witness_CbcdecUnchainsTheBlocks :
    ¬KeyOk State.reset ∧ (KeyOk (withLengths 24 15 0) ∧ (withLengths 24 15 0).ivlen.toNat ≠ 16) ∧
      (KeyOk (tooLong 16 16 0) ∧ (tooLong 16 16 0).ivlen.toNat = 16 ∧
        Config.params.bufCap < (tooLong 16 16 0).len.toNat) ∧
      (KeyOk (withLengths 16 16 0) ∧ (withLengths 16 16 0).ivlen.toNat = 16 ∧
        (withLengths 16 16 0).len.toNat ≤ Config.params.bufCap ∧
        (withLengths 16 16 0).len.toNat = 0) ∧
      (∀ iv, (cipherState iv).buf.wf ∧ KeyOk (cipherState iv) ∧ (cipherState iv).ivlen.toNat = 16 ∧
        (cipherState iv).len.toNat ≤ Config.params.bufCap ∧ (cipherState iv).len.toNat ≠ 0 ∧
        (cipherState iv).len.toNat % 16 = 0) ∧
      ¬PadBad (cipherState (ivEnding 1)) (cipherState (ivEnding 1)).iv
        (cipherState (ivEnding 1)).len.toNat ∧
      ¬PadBad (cipherState (ivEnding 16)) (cipherState (ivEnding 16)).iv
        (cipherState (ivEnding 16)).len.toNat ∧
      PadBad (cipherState (ivEnding 0)) (cipherState (ivEnding 0)).iv
        (cipherState (ivEnding 0)).len.toNat ∧
      PadBad (cipherState (ivEnding 17)) (cipherState (ivEnding 17)).iv
        (cipherState (ivEnding 17)).len.toNat := by
  have h := Config.bufCap_ge_33
  refine ⟨by decide, by decide, ⟨by decide, rfl, bufCap_lt_tooLong _ _ _⟩,
    ⟨by decide, rfl, Nat.zero_le _, rfl⟩, fun iv => ?_, ?_, ?_, ?_, ?_⟩
  · refine ⟨Memory.wf_writeBlock Memory.wf_nil _ _, .inl (show (16#8).toNat = 16 by decide), rfl, ?_,
      ?_, show (16#32).toNat % 16 = 0 by decide⟩
    · show 16 ≤ _
      omega
    · show 16 ≠ 0
      decide
  all_goals
    unfold PadBad
    rw [recoveredByte_cipherState]
    decide

/-- Two states with the same message, key and IV that differ in everything else. -/
def twin : State :=
  { sample with
    klen := 16
    ivlen := 16
    mklen := 1
    len := 1
    key := (Vector.replicate 32 0).set 31 9
    mkey := (Vector.replicate 256 0).set 255 9
    st := Vector.replicate 16 3
    buf := [(1, 0x44)] }

theorem sameMessage_twin : SameMessage { withLengths 16 16 1 with len := 1 } twin := by
  refine ⟨rfl, fun a ha => ?_, rfl, rfl, rfl, rfl⟩
  have h : a < 1 := ha
  have h0 : a = 0 := by omega
  subst h0
  rfl

theorem witness_CbcRoundTrip :
    ((withLengths 16 16 0).buf.wf ∧ KeyOk (withLengths 16 16 0) ∧
        (withLengths 16 16 0).ivlen.toNat = 16 ∧
        paddedLen (withLengths 16 16 0) ≤ Config.params.bufCap) ∧
      ((withLengths 16 16 1).buf.wf ∧ twin.buf.wf ∧
        SameMessage { withLengths 16 16 1 with len := 1 } twin) := by
  have h := Config.bufCap_ge_33
  refine ⟨⟨wf_reset, by decide, rfl, ?_⟩, wf_reset, by decide, sameMessage_twin⟩
  rw [paddedLen_withLengths]
  omega

/-- A state from which SEAL succeeds, for every `Mac`. -/
theorem seals (k : Byte) (m : BitVec 16) (hk : k.toNat = 16 ∨ k.toNat = 24 ∨ k.toNat = 32)
    (hm : 1 ≤ m.toNat ∧ m.toNat ≤ 256) :
    (withLengths k 16 m).buf.wf ∧ KeyOk (withLengths k 16 m) ∧
      (withLengths k 16 m).ivlen.toNat = 16 ∧ MacKeyOk (withLengths k 16 m) ∧
      paddedLen (withLengths k 16 m) + 16 + Config.params.macLen ≤ Config.params.bufCap := by
  refine ⟨wf_reset, hk, rfl, hm, ?_⟩
  rw [paddedLen_withLengths]
  exact Config.bufCap_ge

theorem witness_SealBuildsTheContainer :
    ¬KeyOk State.reset ∧ (KeyOk (withLengths 16 0 1) ∧ (withLengths 16 0 1).ivlen.toNat ≠ 16) ∧
      (KeyOk (withLengths 16 16 0) ∧ (withLengths 16 16 0).ivlen.toNat = 16 ∧
        ¬MacKeyOk (withLengths 16 16 0) ∧ ¬MacKeyOk (withLengths 16 16 257)) ∧
      (KeyOk (tooLong 16 16 1) ∧ (tooLong 16 16 1).ivlen.toNat = 16 ∧ MacKeyOk (tooLong 16 16 1) ∧
        Config.params.bufCap < paddedLen (tooLong 16 16 1) + 16 + Config.params.macLen) ∧
      ((withLengths 16 16 256).buf.wf ∧ KeyOk (withLengths 16 16 256) ∧
        (withLengths 16 16 256).ivlen.toNat = 16 ∧ MacKeyOk (withLengths 16 16 256) ∧
        paddedLen (withLengths 16 16 256) + 16 + Config.params.macLen ≤ Config.params.bufCap) := by
  refine ⟨by decide, by decide, by decide, ⟨by decide, rfl, by decide, ?_⟩,
    seals 16 256 (by decide) (by decide)⟩
  have := bufCap_lt_paddedLen_tooLong 16 16 1
  omega

/-- A container with this ciphertext and IV, and the tag `Mac` gives, under a MAC key of one zero
byte. -/
def tagged (body : Memory) (clen : Nat) : State :=
  { withLengths 16 0 1 with
    len := BitVec.ofNat 32 (clen + 16 + Config.params.macLen)
    buf := body.writeBytes (clen + 16)
      (Config.params.mac ((Vector.replicate 256 (0 : Byte)).toList.take 1)
        (body.readBytes 0 (clen + 16))) }

theorem tagged_len {clen : Nat} (body : Memory) (h : clen ≤ 16) :
    (tagged body clen).len.toNat = clen + 16 + Config.params.macLen := by
  have := Config.lt_of_le_bufCap Config.bufCap_ge
  show (BitVec.ofNat 32 _).toNat = _
  rw [BitVec.toNat_ofNat]
  omega

theorem tagged_meets {clen : Nat} {body : Memory} (hb : body.wf) (h : clen ≤ 16) :
    (tagged body clen).buf.wf ∧ KeyOk (tagged body clen) ∧ MacKeyOk (tagged body clen) ∧
      (tagged body clen).len.toNat ≤ Config.params.bufCap ∧
      16 + Config.params.macLen ≤ (tagged body clen).len.toNat ∧ clenOf (tagged body clen) = clen := by
  have h1 := Config.bufCap_ge
  refine ⟨Memory.wf_writeBytes hb _ _, .inl (show (16#8).toNat = 16 by decide),
    show 1 ≤ (1#16).toNat ∧ (1#16).toNat ≤ 256 by decide, ?_, ?_, ?_⟩
  · rw [tagged_len body h]
    omega
  · rw [tagged_len body h]
    omega
  · rw [clenOf, tagged_len body h]
    omega

theorem tagged_tagOk {clen : Nat} {body : Memory} (hb : body.wf) : TagOk (tagged body clen) clen := by
  have h1 : (tagged body clen).buf.readBytes 0 (clen + 16) = body.readBytes 0 (clen + 16) :=
    Memory.readBytes_congr fun i hi => Memory.read_writeBytes_of_lt hb _ (by omega)
  have h2 := Memory.readBytes_writeBytes hb (clen + 16)
    (Config.params.mac ((Vector.replicate 256 (0 : Byte)).toList.take 1)
      (body.readBytes 0 (clen + 16)))
  rw [Config.length_mac] at h2
  unfold TagOk
  rw [h1]
  exact h2.symm

/-- The same container with the first byte of the tag changed. -/
def tampered : State :=
  { tagged [] 0 with
    buf := (tagged [] 0).buf.write 16 ((tagged [] 0).buf.read 16 + 1) }

theorem tampered_tagBad : ¬TagOk tampered (clenOf tampered) := by
  have hw : (tagged [] 0).buf.wf := (tagged_meets Memory.wf_nil (Nat.zero_le 16)).1
  have hc : clenOf tampered = 0 := (tagged_meets Memory.wf_nil (Nat.zero_le 16)).2.2.2.2.2
  have hp := Config.macLen_pos
  have ho := tagged_tagOk (clen := 0) Memory.wf_nil
  have h1 : tampered.buf.readBytes 0 (0 + 16) = (tagged [] 0).buf.readBytes 0 (0 + 16) :=
    Memory.readBytes_congr fun i hi => by
      show ((tagged [] 0).buf.write 16 _).read _ = _
      rw [Memory.read_write hw, if_neg (by omega)]
  rw [hc]
  intro hbad
  unfold TagOk at ho hbad
  rw [h1] at hbad
  have h2 := congrArg (fun l : List Byte => l.getD 0 0) (ho.symm.trans hbad)
  beta_reduce at h2
  rw [Memory.getD_readBytes _ _ _ _ hp, Memory.getD_readBytes _ _ _ _ hp] at h2
  have h3 : tampered.buf.read (0 + 16 + 0) = (tagged [] 0).buf.read 16 + 1 := by
    show ((tagged [] 0).buf.write 16 _).read 16 = _
    rw [Memory.read_write hw, if_pos rfl]
  rw [h3] at h2
  have h4 : (tagged [] 0).buf.read 16 = (tagged [] 0).buf.read 16 + 1 := h2
  bv_omega

theorem witness_TagMismatchLeavesTheBuffer :
    KeyOk tampered ∧ MacKeyOk tampered ∧ tampered.len.toNat ≤ Config.params.bufCap ∧
      16 + Config.params.macLen ≤ tampered.len.toNat ∧ ¬TagOk tampered (clenOf tampered) ∧
      Instr.cbcdec ≠ .openContainer ∧
      exec .cbcdec State.reset = .next { wiped State.reset with err := 1, sub := 1 } :=
  have h := tagged_meets Memory.wf_nil (Nat.zero_le 16)
  ⟨h.2.1, h.2.2.1, h.2.2.2.1, h.2.2.2.2.1, tampered_tagBad, by decide, rfl⟩

/-- A container whose ciphertext is V-Z128's and whose IV ends in `b`. -/
def container (b : Byte) : State := tagged ((Memory.writeBlock [] 0 zeroCipher).write 31 b) 16

theorem wf_containerBody (b : Byte) : ((Memory.writeBlock [] 0 zeroCipher).write 31 b).wf :=
  Memory.wf_write (Memory.wf_writeBlock Memory.wf_nil _ _) _ _

theorem container_read (b : Byte) {a : Nat} (h : a < 32) :
    (container b).buf.read a = ((Memory.writeBlock [] 0 zeroCipher).write 31 b).read a :=
  Memory.read_writeBytes_of_lt (wf_containerBody b) _ h

theorem container_clen (b : Byte) : clenOf (container b) = 16 :=
  (tagged_meets (wf_containerBody b) (le_refl 16)).2.2.2.2.2

/-- The last byte of the message the container holds is the last byte of its IV. -/
theorem container_last (b : Byte) :
    recoveredByte (container b) (containerIv (container b)) (clenOf (container b) - 1) = b := by
  have hw := Memory.wf_writeBlock Memory.wf_nil 0 zeroCipher
  rw [container_clen, recoveredByte_zeroCipher (s := container b) (by rfl) rfl ?_ (by decide)]
  · show byteOf (Vector.ofFn fun i => (container b).buf.read (clenOf (container b) + i.val)) 15 = b
    rw [container_clen]
    simp only [byteOf, Vector.toList_ofFn, List.getD_eq_getElem?_getD]
    simp [container_read, Memory.read_write hw]
  · refine Eq.trans ?_ blockOf_zeroCipher
    unfold blockOf
    congr 1
    funext i
    rw [container_read b (by omega), Memory.read_write hw, if_neg (by omega)]

theorem witness_OpenDecryptsAfterTheTag :
    ¬KeyOk State.reset ∧ (KeyOk (withLengths 16 0 0) ∧ ¬MacKeyOk (withLengths 16 0 0)) ∧
      (KeyOk (tooLong 16 0 1) ∧ MacKeyOk (tooLong 16 0 1) ∧
        Config.params.bufCap < (tooLong 16 0 1).len.toNat) ∧
      (KeyOk (withLengths 16 0 1) ∧ MacKeyOk (withLengths 16 0 1) ∧
        (withLengths 16 0 1).len.toNat ≤ Config.params.bufCap ∧
        (withLengths 16 0 1).len.toNat < 16 + Config.params.macLen) ∧
      ¬TagOk tampered (clenOf tampered) ∧
      (TagOk (tagged [] 0) (clenOf (tagged [] 0)) ∧ clenOf (tagged [] 0) = 0) ∧
      (∀ b, (container b).buf.wf ∧ KeyOk (container b) ∧ MacKeyOk (container b) ∧
        (container b).len.toNat ≤ Config.params.bufCap ∧
        16 + Config.params.macLen ≤ (container b).len.toNat ∧
        TagOk (container b) (clenOf (container b)) ∧ clenOf (container b) ≠ 0 ∧
        clenOf (container b) % 16 = 0) ∧
      ¬PadBad (container 16) (containerIv (container 16)) (clenOf (container 16)) ∧
      PadBad (container 17) (containerIv (container 17)) (clenOf (container 17)) := by
  have hz := tagged_meets Memory.wf_nil (Nat.zero_le 16)
  refine ⟨by decide, by decide, ⟨by decide, by decide, bufCap_lt_tooLong _ _ _⟩,
    ⟨by decide, by decide, Nat.zero_le _, ?_⟩, tampered_tagBad, ⟨?_, hz.2.2.2.2.2⟩, fun b => ?_, ?_,
    ?_⟩
  · show 0 < _
    omega
  · rw [hz.2.2.2.2.2]
    exact tagged_tagOk Memory.wf_nil
  · have h := tagged_meets (wf_containerBody b) (le_refl 16)
    refine ⟨h.1, h.2.1, h.2.2.1, h.2.2.2.1, h.2.2.2.2.1, ?_, ?_, ?_⟩
    · rw [container_clen]
      exact tagged_tagOk (wf_containerBody b)
    · rw [container_clen]
      decide
    · rw [container_clen]
  all_goals
    unfold PadBad
    rw [container_last]
    decide

theorem witness_SealOpenRoundTrip :
    (withLengths 24 16 1).buf.wf ∧ KeyOk (withLengths 24 16 1) ∧
      (withLengths 24 16 1).ivlen.toNat = 16 ∧ MacKeyOk (withLengths 24 16 1) ∧
      paddedLen (withLengths 24 16 1) + 16 + Config.params.macLen ≤ Config.params.bufCap :=
  seals 24 1 (by decide) (by decide)

theorem witness_ChangedTagIsRejected :
    ((withLengths 16 16 1).buf.wf ∧ KeyOk (withLengths 16 16 1) ∧
      (withLengths 16 16 1).ivlen.toNat = 16 ∧ MacKeyOk (withLengths 16 16 1) ∧
      paddedLen (withLengths 16 16 1) + 16 + Config.params.macLen ≤ Config.params.bufCap) ∧
      0 < Config.params.macLen ∧ Config.params.macLen - 1 < Config.params.macLen ∧
      ∀ j, ∃ (t : State) (v : Byte), exec .sealContainer (withLengths 16 16 1) = .next t ∧
        t.buf.read (paddedLen (withLengths 16 16 1) + 16 + j) ≠ v := by
  have h := Config.macLen_pos
  refine ⟨seals 16 1 (by decide) (by decide), by omega, by omega, fun j => ?_⟩
  refine ⟨sealCommand Config.params (withLengths 16 16 1),
    (sealCommand Config.params (withLengths 16 16 1)).buf.read
      (paddedLen (withLengths 16 16 1) + 16 + j) + 1, rfl, ?_⟩
  generalize (sealCommand Config.params (withLengths 16 16 1)).buf.read _ = x
  intro hx
  bv_omega

theorem witness_SealDependsOnItsInputsOnly :
    (withLengths 16 16 1).buf.wf ∧ twin.buf.wf ∧
      SameInputs { withLengths 16 16 1 with len := 1 } twin :=
  ⟨wf_reset, by decide, sameMessage_twin, rfl, by decide +kernel⟩

theorem witness_FirstErrorIsReported :
    (State.reset.buf.wf ∧ (State.reset.rkv = true → ScheduleOk State.reset)) ∧
      (scheduled 14).buf.wf ∧ (scheduled 14).rkv = true ∧ ScheduleOk (scheduled 14) :=
  ⟨⟨wf_reset, nofun⟩, wf_reset, rfl, by decide⟩

theorem firstError_cbcdec_pad : firstError .cbcdec (cipherState (ivEnding 0)) = (3, 0) := by
  have h := witness_CbcdecUnchainsTheBlocks.2.2.2.2.1 (ivEnding 0)
  have hp := witness_CbcdecUnchainsTheBlocks.2.2.2.2.2.2.2.1
  simp only [firstError]
  rw [if_neg (not_not.2 h.2.1), if_neg (not_not.2 h.2.2.1), if_neg (Nat.not_lt.2 h.2.2.2.1),
    if_neg (by omega), if_pos hp]

theorem firstError_open_pad : firstError .openContainer (container 17) = (3, 0) := by
  have h := witness_OpenDecryptsAfterTheTag.2.2.2.2.2.2.1 17
  have hp := witness_OpenDecryptsAfterTheTag.2.2.2.2.2.2.2.2
  simp only [firstError]
  rw [if_neg (not_not.2 h.2.1), if_neg (not_not.2 h.2.2.1), if_neg (Nat.not_lt.2 h.2.2.2.1),
    if_neg (Nat.not_lt.2 h.2.2.2.2.1), if_neg (not_not.2 h.2.2.2.2.2.1), if_neg (by omega),
    if_pos hp]

theorem witness_FailingCommandsLeaveBufAndLen :
    (State.reset.hidden = Hidden.idle ∧ IllegalValue 0x0110) ∧
      (State.reset.buf.wf ∧ firstError .kexp State.reset ≠ (0, 0) ∧ Instr.kexp ∉ topLevel) ∧
      (firstError .openContainer State.reset = (1, 1) ∧ Instr.openContainer ∈ topLevel) ∧
      firstError .cbcdec (cipherState (ivEnding 0)) = (3, 0) ∧
      (cipherState (ivEnding 0)).hidden = Hidden.idle ∧
      firstError .openContainer (container 17) = (3, 0) ∧ (container 17).hidden = Hidden.idle :=
  ⟨⟨rfl, illegal_0110⟩, ⟨wf_reset, by decide, by decide⟩, ⟨by decide, by decide⟩,
    firstError_cbcdec_pad, rfl, firstError_open_pad, rfl⟩

theorem witness_TopLevelCommandsAlwaysDiscard :
    Instr.sealContainer ∈ topLevel ∧ Instr.sealContainer ≠ .openContainer ∧
      Instr.openContainer ∈ topLevel ∧ Instr.encb ∉ topLevel ∧ Instr.encb ≠ .zeroize ∧
      Instr.encb ≠ .kexp := by decide

theorem witness_CommandsKeepTheAccessMatrix :
    Instr.nop ≠ .zeroize ∧ Instr.nop ∉ topLevel ∧ Instr.nop ≠ .pad ∧ Instr.nop ≠ .unpad ∧
      ∀ r, Instr.nop ≠ .addrk r := by
  refine ⟨by decide, by decide, by decide, by decide, fun r => ?_⟩
  nofun

theorem witness_StoresStayInTheFootprint :
    State.reset.buf.wf ∧ Instr.pad ≠ .zeroize ∧ (footprint .pad State.reset).2 ≤ 16 ∧
      15 < (footprint .pad State.reset).2 := ⟨wf_reset, by decide, by decide, by decide⟩

theorem witness_KeyTailIsIgnored :
    (∀ j : Fin 32, j.val < (withLengths 16 16 1).klen.toNat →
        ((withLengths 16 16 1).key.set 31 9)[j] = (withLengths 16 16 1).key[j]) ∧
      (withLengths 16 16 1).key.set 31 9 ≠ (withLengths 16 16 1).key := by decide

theorem witness_MacKeyTailIsIgnored :
    (∀ j : Fin 256, j.val < (withLengths 16 16 1).mklen.toNat →
        ((withLengths 16 16 1).mkey.set 255 9)[j] = (withLengths 16 16 1).mkey[j]) ∧
      (withLengths 16 16 1).mkey.set 255 9 ≠ (withLengths 16 16 1).mkey := by
  constructor
  · intro j hj
    have h : j.val < 1 := hj
    rw [Fin.getElem_fin, Fin.getElem_fin, Vector.getElem_set_ne _ _ (by omega)]
  · intro h
    have := congrArg (fun x : Vector Byte 256 => x[255]) h
    simp [withLengths, State.reset] at this

/-- A state that meets the invariant with a schedule held and a command waiting. -/
theorem inv_scheduled : Inv { scheduled 12 with pending := [.write 0 0x0050] } where
  bufForm := wf_reset
  bufInside := fun c hc => absurd hc (List.not_mem_nil)
  hiddenIdle := rfl
  valid := fun _ => ⟨.aes192, List.replicate 24 0, by decide, by decide, rfl⟩
  invalid := nofun
  errCode := by decide
  subCause := by decide

theorem witness_EveryStepKeepsTheInvariant :
    Inv { scheduled 12 with pending := [.write 0 0x0050] } ∧
      step { scheduled 12 with pending := [.write 0 0x0050] } = exec .encb (scheduled 12) ∧
      ∃ t, exec .encb (scheduled 12) = .next t := ⟨inv_scheduled, rfl, _, rfl⟩

theorem witness_HostAccessesLeaveTheStatus :
    ({ sample with pending := [.read 1] } : State).pending = .read 1 :: [] ∧
      ({ sample with pending := [.write 2 0x57] } : State).pending = .write 2 0x57 :: [] ∧
      (∃ n v, HostEvent.write 2 0x57 = .write n v ∧ n ≠ 0) ∧
      ∃ n, HostEvent.read 1 = .read n :=
  ⟨rfl, rfl, ⟨2, 0x57, rfl, by decide⟩, 1, rfl⟩

/-- RKV = 1 beside a round count no key has. -/
def mismatched (n : BitVec 4) : State := { State.reset with rkv := true, nr := n }

theorem witness_BlockFunctionsTakeAMatchingSchedule :
    (14 ≤ Variant.aes256.rounds ∧ 15 < 16) ∧
      ((mismatched 15).rkv = true ∧ ¬ScheduleOk (mismatched 15) ∧
        (mismatched 15).hidden = Hidden.idle) ∧ ¬ScheduleOk (mismatched 0) ∧
      ¬ScheduleOk (mismatched 11) ∧
      Inv { scheduled 12 with pending := [.write 0 0x0050] } ∧ (scheduled 12).rkv = true :=
  ⟨by decide, by decide, by decide, by decide, inv_scheduled, rfl⟩

theorem test_block_commands_refuse_a_mismatched_round_count :
    (nextState (exec (.addrk 15) (mismatched 15))).map statusWord = some 0x0F87 ∧
    (nextState (exec .encb (mismatched 15))).map statusWord = some 0x0F87 ∧
    (nextState (exec .decb (mismatched 0))).map statusWord = some 0x0087 := by decide

end Sys2Proof.Tests
end

section
/-! The scope (`00_scope.md`): the open parameters keep the bounds of R8 and R269. -/

namespace Sys2Proof.Proofs

/-- Settles O16: every field is a law of the configuration. `Mac` has MacLen bytes for every key,
so R269's bounds on the key length are not needed. -/
theorem parametersAreLegal : Obligations.ParametersAreLegal where
  macLen_pos := Config.macLen_pos
  macLen_le := Config.macLen_le
  bufCap_ge := Config.bufCap_ge
  bufCap_le := Config.bufCap_le
  mac_length := fun key msg _ _ => Config.length_mac key msg

end Sys2Proof.Proofs
end

section
/-! The ways a command can end, one lemma per command with a branch: the error it raises, or the
state it completes in. The invariant and the access matrix are both read off these lemmas. -/

namespace Sys2Proof.Proofs

open Sys2Proof.Machine

/-- ERR and SUB as R25, R246 and R247 allow them: ERR is never 5 and never above 7, SUB is 1 to 4
with ERR = 1 and else 0. -/
abbrev LegalStatus (err : BitVec 4) (sub : BitVec 3) : Prop :=
  (err.toNat ≤ 7 ∧ err ≠ 5) ∧ if err = 1 then 1 ≤ sub.toNat ∧ sub.toNat ≤ 4 else sub = 0

/-- An error that leaves a legal STATUS. -/
abbrev LegalError (e : CmdError) : Prop := LegalStatus e.code e.cause

/-- BUF is in canonical form and lies inside BUF_CAP. -/
def BufOk (m : Memory) : Prop := m.wf ∧ m.Inside Config.params.bufCap

theorem BufOk.nil : BufOk [] := ⟨Memory.wf_nil, fun _ hc => absurd hc List.not_mem_nil⟩

theorem BufOk.writeBytes {m : Memory} (hm : BufOk m) {a : Nat} {bs : List Byte}
    (h : a + bs.length ≤ Config.params.bufCap) : BufOk (m.writeBytes a bs) :=
  ⟨Memory.wf_writeBytes hm.1 a bs, Memory.inside_writeBytes hm.2 h⟩

theorem BufOk.writeBlock {m : Memory} (hm : BufOk m) {a : Nat} {x : Block}
    (h : a + 16 ≤ Config.params.bufCap) : BufOk (m.writeBlock a x) :=
  hm.writeBytes (by rwa [Vector.length_toList])

theorem BufOk.write {m : Memory} (hm : BufOk m) {a : Nat} (v : Byte)
    (h : a < Config.params.bufCap) : BufOk (m.write a v) :=
  hm.writeBytes (bs := [v]) h

theorem BufOk.writePad {s : State} (hs : BufOk s.buf)
    (h : lenOf s + padLen (lenOf s) ≤ Config.params.bufCap) : BufOk (writePad s).buf :=
  hs.writeBytes (by rwa [length_padBytes])

/-! ## The primitive commands that test a condition -/

/-- ADDRK, ENCB and DECB, the commands that need a schedule in RK (R253). -/
abbrev BlockCommand (i : Instr) : Prop := (∃ r, i = .addrk r) ∨ i = .encb ∨ i = .decb

theorem exec_blockCommand_cases {i : Instr} (hi : BlockCommand i) (s : State) :
    exec i s = .next (raiseError .primitive .scheduleInvalid s) ∨
      ∃ x, exec i s = .next (succeed { s with st := x }) ∨
        exec i s = .next (clearHidden (succeed { s with st := x })) := by
  rcases hi with ⟨r, rfl⟩ | rfl | rfl
  · rw [exec, execAddrk]
    cases heldRoundKey s r with
    | none => exact .inl rfl
    | some k => exact .inr ⟨_, .inl rfl⟩
  · rw [exec, execEncb]
    cases heldVariant s with
    | none => exact .inl rfl
    | some v => exact .inr ⟨_, .inr rfl⟩
  · rw [exec, execDecb]
    cases heldVariant s with
    | none => exact .inl rfl
    | some v => exact .inr ⟨_, .inr rfl⟩

theorem execKexp_cases (s : State) :
    execKexp s = .next (raiseError .primitive (.keyMaterialUnavailable causeKlen) s) ∨
      ∃ v, keyVariant s = some v ∧ execKexp s = .next (succeed (expandState s)) := by
  unfold execKexp
  cases keyVariant s with
  | none => exact .inl rfl
  | some v => exact .inr ⟨v, rfl, rfl⟩

theorem padCommand_cases (P : Params) (s : State) :
    padCommand P s = raiseError .primitive (.keyMaterialUnavailable causeCapacity) s ∨
      lenOf s + padLen (lenOf s) ≤ P.bufCap ∧
        ∃ n, padCommand P s = succeed { writePad s with len := n } := by
  unfold padCommand
  split
  · exact .inl rfl
  · next h => exact .inr ⟨Nat.le_of_not_lt h, _, rfl⟩

theorem unpadCommand_cases (P : Params) (s : State) :
    (∃ e : CmdError, LegalError e ∧ unpadCommand P s = raiseError .primitive e s) ∨
      ∃ n, unpadCommand P s = succeed { s with len := n } := by
  unfold unpadCommand
  split
  · exact .inl ⟨.keyMaterialUnavailable causeCapacity, by decide, rfl⟩
  split
  · exact .inl ⟨.invalidCiphertextLength, by decide, rfl⟩
  split
  · exact .inl ⟨.invalidPadding, by decide, rfl⟩
  · exact .inr ⟨_, rfl⟩

/-! ## The top-level commands -/

/-- What every exit of a top-level command from `s` has in common (R236, R255, R257): the discard,
with BUF, LEN and a legal STATUS of its own. -/
structure EndsDiscarded (s t : State) : Prop where
  frame : t = { discard s with buf := t.buf, len := t.len, err := t.err, sub := t.sub }
  status : LegalStatus t.err t.sub
  bufOk : BufOk s.buf → BufOk t.buf

theorem EndsDiscarded.raise {e : CmdError} (he : LegalError e) (s : State) :
    EndsDiscarded s (raiseError .topLevel e s) := ⟨rfl, he, id⟩

/-- Before its end a top-level command writes RK, RKV, NR, ST, BUF, LEN and hidden registers. -/
theorem EndsDiscarded.complete {s u : State}
    (hu : u = { s with
      rk := u.rk, rkv := u.rkv, nr := u.nr, st := u.st, buf := u.buf, len := u.len,
      hidden := u.hidden })
    (hb : BufOk s.buf → BufOk u.buf) : EndsDiscarded s (completeTop u) := by
  refine ⟨?_, (by decide : LegalStatus 0 0), hb⟩
  rw [hu]
  rfl

theorem BufOk.encryptPadded {s : State} {v : Variant} (hs : BufOk s.buf)
    (h : lenOf s + padLen (lenOf s) ≤ Config.params.bufCap) : BufOk (encryptPadded v s).buf := by
  have hpad := BufOk.writePad (s := expandState s) hs h
  refine ⟨wf_encryptPadded hs.1, inside_cbcEncBlocks _ _ (s := chainFromIv _) hpad.2 ?_⟩
  have := padLen_bounds (lenOf s)
  omega

theorem BufOk.cbcDecrypt {s : State} {v : Variant} {n : Nat} (hs : BufOk s.buf)
    (h : n ≤ Config.params.bufCap) : BufOk (cbcDecrypt v n s).buf :=
  ⟨wf_cbcDecrypt n hs.1,
    inside_cbcDecBlocks _ _ (s := chainFromIv (expandState s)) hs.2 (by omega)⟩

theorem BufOk.eraseDecrypted {s : State} {n : Nat} (hs : BufOk s.buf)
    (h : n ≤ Config.params.bufCap) : BufOk (eraseDecrypted n s).buf :=
  hs.writeBytes (by rwa [List.length_replicate, Nat.zero_add])

theorem cbcEncrypt_frame (v : Variant) (s : State) :
    cbcEncrypt v s =
      { expandState s with
        st := (encryptPadded v s).st
        buf := (encryptPadded v s).buf
        hidden := { s.hidden with cv := (encryptPadded v s).hidden.cv }
        len := BitVec.ofNat 32 (lenOf s + padLen (lenOf s)) } := by
  unfold cbcEncrypt
  rw [encryptPadded_frame]

theorem lenOf_cbcEncrypt_le (v : Variant) (s : State) :
    lenOf (cbcEncrypt v s) ≤ lenOf s + padLen (lenOf s) := Nat.mod_le _ _

theorem cbcDecryptInPlace_endsDiscarded (v : Variant) {n : Nat} (s : State)
    (hn : n ≤ Config.params.bufCap) : EndsDiscarded s (cbcDecryptInPlace v n s) := by
  rcases cbcDecryptInPlace_cases (v := v) n s with ⟨-, h⟩ | ⟨-, -, h⟩ | ⟨-, -, h⟩ <;> rw [h]
  · exact ⟨rfl, (by decide : LegalStatus 2 0), id⟩
  · exact ⟨rfl, (by decide : LegalStatus 3 0), fun hs => (hs.cbcDecrypt hn).eraseDecrypted hn⟩
  · exact ⟨rfl, (by decide : LegalStatus 0 0), fun hs => hs.cbcDecrypt hn⟩

theorem cbcencCommand_endsDiscarded (s : State) :
    EndsDiscarded s (cbcencCommand Config.params s) := by
  unfold cbcencCommand
  split
  · exact .raise (by decide) s
  split
  · exact .raise (by decide) s
  split
  · exact .raise (by decide) s
  next v _ _ hcap =>
    exact .complete (by rw [cbcEncrypt_frame]; rfl)
      fun hs => hs.encryptPadded (Nat.le_of_not_lt hcap)

theorem cbcdecCommand_endsDiscarded (s : State) :
    EndsDiscarded s (cbcdecCommand Config.params s) := by
  unfold cbcdecCommand
  split
  · exact .raise (by decide) s
  split
  · exact .raise (by decide) s
  split
  · exact .raise (by decide) s
  next v _ _ hcap => exact cbcDecryptInPlace_endsDiscarded v s (Nat.le_of_not_lt hcap)

/-- The container of SEAL stays inside BUF where the capacity check lets it pass. -/
theorem BufOk.appendIvAndTag {s : State} (hs : BufOk s.buf)
    (h : lenOf s + 16 + Config.params.macLen ≤ Config.params.bufCap) :
    BufOk (appendIvAndTag Config.params s).buf := by
  refine (hs.writeBlock ?_).writeBytes ?_
  · omega
  · rwa [macRequest, Config.length_mac]

theorem sealCommand_endsDiscarded (s : State) :
    EndsDiscarded s (sealCommand Config.params s) := by
  unfold sealCommand
  split
  · exact .raise (by decide) s
  split
  · exact .raise (by decide) s
  split
  · exact .raise (by decide) s
  split
  · exact .raise (by decide) s
  next v _ _ _ hcap =>
    have hlen := lenOf_cbcEncrypt_le v s
    refine .complete (by rw [appendIvAndTag, cbcEncrypt_frame]; rfl) fun hs => ?_
    have henc : BufOk (cbcEncrypt v s).buf := hs.encryptPadded (by omega)
    exact henc.appendIvAndTag (by omega)

/-- OPEN alone may load the IV before it ends (R215). -/
theorem openCommand_endsDiscarded (s : State) :
    ∃ x n, EndsDiscarded { s with iv := x, ivlen := n } (openCommand Config.params s) := by
  unfold openCommand
  split
  · exact ⟨s.iv, s.ivlen, .raise (by decide) s⟩
  split
  · exact ⟨s.iv, s.ivlen, .raise (by decide) s⟩
  split
  · exact ⟨s.iv, s.ivlen, .raise (by decide) s⟩
  split
  · exact ⟨s.iv, s.ivlen, .raise (by decide) s⟩
  next v _ _ hcap _ =>
    dsimp only
    split
    · exact ⟨s.iv, s.ivlen, rfl, (by decide : LegalError .integrityError), id⟩
    · have hn : cipherLen Config.params (lenOf s) ≤ Config.params.bufCap := by
        unfold cipherLen
        omega
      obtain ⟨hframe, hstatus, hbuf⟩ := cbcDecryptInPlace_endsDiscarded v
        (loadContainerIv _ (recomputeTag Config.params (cipherLen Config.params (lenOf s)) s)) hn
      exact ⟨_, _, hframe, hstatus, hbuf⟩

end Sys2Proof.Proofs
end

section
/-! The invariant of the states between commands (`10_state.md` R23, R25, R38; `20_memory.md` R71;
`60_exceptions.md` R246, R247): reset meets it and every step keeps it. -/

namespace Sys2Proof.Proofs

open Sys2Proof.Machine

theorem bufOk_of_inv {s : State} (h : Inv s) : BufOk s.buf := ⟨h.bufForm, h.bufInside⟩

/-- The invariant speaks of BUF, the hidden registers, RK, RKV, NR and STATUS only. -/
theorem inv_of_same_schedule {s t : State} (h : Inv s) (hbuf : BufOk t.buf)
    (hstatus : LegalStatus t.err t.sub) (hhidden : t.hidden = Hidden.idle)
    (hrk : t.rk = s.rk := by rfl) (hrkv : t.rkv = s.rkv := by rfl)
    (hnr : t.nr = s.nr := by rfl) : Inv t where
  bufForm := hbuf.1
  bufInside := hbuf.2
  hiddenIdle := hhidden
  valid := by
    unfold ScheduleHeld
    rw [hrk, hrkv, hnr]
    exact h.valid
  invalid := by
    rw [hrk, hrkv, hnr]
    exact h.invalid
  errCode := hstatus.1
  subCause := hstatus.2

/-- A change of registers the invariant does not speak of. -/
theorem inv_of_same {s t : State} (h : Inv s) (hbuf : t.buf = s.buf := by rfl)
    (hhidden : t.hidden = s.hidden := by rfl) (herr : t.err = s.err := by rfl)
    (hsub : t.sub = s.sub := by rfl) (hrk : t.rk = s.rk := by rfl)
    (hrkv : t.rkv = s.rkv := by rfl) (hnr : t.nr = s.nr := by rfl) : Inv t :=
  inv_of_same_schedule h (hbuf ▸ bufOk_of_inv h)
    (by rw [herr, hsub]; exact ⟨h.errCode, h.subCause⟩) (hhidden.trans h.hiddenIdle) hrk hrkv hnr

theorem inv_setBuf {s : State} (h : Inv s) {m : Memory} (hm : BufOk m) :
    Inv { s with buf := m } :=
  inv_of_same_schedule h hm ⟨h.errCode, h.subCause⟩ h.hiddenIdle

theorem inv_succeed {s : State} (h : Inv s) : Inv (succeed s) :=
  inv_of_same_schedule h (bufOk_of_inv (s := s) h) (by decide : LegalStatus 0 0) h.hiddenIdle

theorem inv_clearHidden {s : State} (h : Inv s) : Inv (clearHidden s) :=
  inv_of_same_schedule h (bufOk_of_inv (s := s) h) ⟨h.errCode, h.subCause⟩ rfl

theorem inv_raiseError {s : State} (h : Inv s) {e : CmdError} (he : LegalError e) :
    Inv (raiseError .primitive e s) :=
  inv_of_same_schedule h (bufOk_of_inv (s := s) h) he rfl

/-- Settles O55: no schedule is held, BUF is empty, and ERR and SUB are 0. -/
theorem resetMeetsTheInvariant : Obligations.ResetMeetsTheInvariant where
  bufForm := wf_reset
  bufInside := BufOk.nil.2
  hiddenIdle := rfl
  valid := nofun
  invalid := fun _ => ⟨rfl, rfl⟩
  errCode := by decide
  subCause := by decide

theorem inv_resetCore (s : State) : Inv (resetCore s) :=
  inv_of_same (s := State.reset) resetMeetsTheInvariant

/-- After a discard no schedule is held (R236), so only BUF of the state before it matters. -/
theorem EndsDiscarded.inv {s t : State} (h : EndsDiscarded s t) (hs : BufOk s.buf) : Inv t where
  bufForm := (h.bufOk hs).1
  bufInside := (h.bufOk hs).2
  hiddenIdle := by rw [h.frame]; rfl
  valid := by rw [h.frame]; nofun
  invalid := fun _ => by rw [h.frame]; exact ⟨rfl, rfl⟩
  errCode := h.status.1
  subCause := h.status.2

theorem length_keyBytes {s : State} {v : Variant} (h : keyVariant s = some v) :
    (keyBytes s).length = v.keyLength := by
  have hk := (keyVariant_eq_some s v).1 h
  rw [keyBytes, List.length_take, Vector.length_toList, hk]
  cases v <;> rfl

/-- NR of a schedule KEXP makes is the round count of KLEN's variant (R3, R150). -/
theorem nr_expandState {s : State} {v : Variant} (h : keyVariant s = some v) :
    (expandState s).nr.toNat = v.rounds := by
  rw [expandState_nr, (keyVariant_eq_some s v).1 h]
  cases v <;> rfl

theorem inv_expandState {s : State} (h : Inv s) {v : Variant} (hv : keyVariant s = some v) :
    Inv (expandState s) where
  bufForm := h.bufForm
  bufInside := h.bufInside
  hiddenIdle := h.hiddenIdle
  valid := fun _ => ⟨v, keyBytes s, length_keyBytes hv, nr_expandState hv, rfl⟩
  invalid := nofun
  errCode := h.errCode
  subCause := h.subCause

/-! ## The commands -/

/-- The outcome is a next state, and the invariant holds there. -/
def NextInv (o : Host.Outcome State Fault Refusal) : Prop := ∃ t, o = .next t ∧ Inv t

theorem NextInv.next {t : State} (h : Inv t) : NextInv (.next t) := ⟨t, rfl, h⟩

theorem inv_blockCommand {s : State} (h : Inv s) {i : Instr} (hi : BlockCommand i) :
    NextInv (exec i s) := by
  rcases exec_blockCommand_cases hi s with he | ⟨x, he | he⟩ <;> rw [he]
  · exact .next (inv_raiseError h (by decide))
  · exact .next (inv_succeed (inv_of_same h))
  · exact .next (inv_clearHidden (inv_succeed (inv_of_same h)))

theorem inv_kexp {s : State} (h : Inv s) : NextInv (execKexp s) := by
  rcases execKexp_cases s with he | ⟨v, hv, he⟩ <;> rw [he]
  · exact .next (inv_raiseError h (by decide))
  · exact .next (inv_succeed (inv_expandState h hv))

theorem inv_pad {s : State} (h : Inv s) : Inv (padCommand Config.params s) := by
  rcases padCommand_cases Config.params s with he | ⟨hcap, n, he⟩ <;> rw [he]
  · exact inv_raiseError h (by decide)
  · exact inv_succeed (inv_of_same (inv_setBuf h ((bufOk_of_inv h).writePad hcap)))

theorem inv_unpad {s : State} (h : Inv s) : Inv (unpadCommand Config.params s) := by
  rcases unpadCommand_cases Config.params s with ⟨e, hl, he⟩ | ⟨n, he⟩ <;> rw [he]
  · exact inv_raiseError h hl
  · exact inv_succeed (inv_of_same h)

/-- Every command completes, and keeps the invariant. -/
theorem inv_exec {s : State} (h : Inv s) (i : Instr) : NextInv (exec i s) := by
  cases i with
  | nop => exact .next (inv_succeed h)
  | zeroize => exact .next (inv_succeed (inv_resetCore s))
  | gfmul => exact .next (inv_clearHidden (inv_succeed (inv_of_same h)))
  | subbF | subbI | subsF | subsI | shrF | shrI => exact .next (inv_succeed (inv_of_same h))
  | mixcF | mixcI => exact .next (inv_clearHidden (inv_succeed (inv_of_same h)))
  | addrk r => exact inv_blockCommand h (.inl ⟨r, rfl⟩)
  | kexp => exact inv_kexp h
  | encb => exact inv_blockCommand h (.inr (.inl rfl))
  | decb => exact inv_blockCommand h (.inr (.inr rfl))
  | pad => exact .next (inv_pad h)
  | unpad => exact .next (inv_unpad h)
  | cbcenc => exact .next ((cbcencCommand_endsDiscarded s).inv (bufOk_of_inv h))
  | cbcdec => exact .next ((cbcdecCommand_endsDiscarded s).inv (bufOk_of_inv h))
  | sealContainer => exact .next ((sealCommand_endsDiscarded s).inv (bufOk_of_inv h))
  | openContainer =>
    obtain ⟨x, n, hopen⟩ := openCommand_endsDiscarded s
    exact .next (hopen.inv (bufOk_of_inv (s := s) h))

/-! ## The host's accesses -/

/-- The register map read backwards (R65): the number a register has, and the bound of BUF. -/
def HasNumber (P : Params) (n : Nat) : Reg → Prop
  | .cmd => n = 0
  | .status => n = 1
  | .opa => n = 2
  | .opb => n = 3
  | .res => n = 4
  | .klen => n = 5
  | .ivlen => n = 6
  | .mklen => n = 7
  | .len => n = 8
  | .cap => n = 9
  | .maclen => n = 10
  | .st i => n = 0x10 + i.val
  | .iv i => n = 0x20 + i.val
  | .key i => n = 0x40 + i.val
  | .rk i => n = 0x100 + i.val
  | .mkey i => n = 0x200 + i.val
  | .buf i => i < P.bufCap ∧ n = 0x10000 + i
  | .unmapped => True

theorem hasNumber_of_regAt {P : Params} {n : Nat} {r : Reg} (h : regAt P n = r) :
    HasNumber P n r := by
  subst h
  rcases regAt_cases P n with hn | ⟨i, rfl⟩ | ⟨i, rfl⟩ | ⟨i, rfl⟩ | ⟨i, rfl⟩ | ⟨i, rfl⟩ |
    ⟨i, hi, rfl⟩ | hu
  · interval_cases n <;> rfl
  · rw [regAt_st]; rfl
  · rw [regAt_iv]; rfl
  · rw [regAt_key]; rfl
  · rw [regAt_rk]; rfl
  · rw [regAt_mkey]; rfl
  · rw [regAt_buf _ _ hi]; exact ⟨hi, rfl⟩
  · rw [hu]; trivial

theorem inv_hostWrite {s : State} (h : Inv s) (n v : Word32) :
    Inv (hostWrite Config.params n v s) := by
  unfold hostWrite
  cases hr : regAt Config.params n.toNat with
  | buf i => exact inv_setBuf h ((bufOk_of_inv h).write _ (hasNumber_of_regAt hr).1)
  | cmd | status | res | cap | maclen | rk | unmapped => exact h
  | opa | opb | klen | ivlen | mklen | len | st | iv | key | mkey => exact inv_of_same h

theorem inv_writeCmd {s : State} (h : Inv s) (v : Word32) : NextInv (writeCmd v s) := by
  unfold writeCmd
  split
  · exact inv_exec h _
  · exact .next (inv_raiseError h (by decide))

/-- One thing the outside world does keeps the invariant. -/
theorem inv_hostEvent {s : State} (h : Inv s) (e : HostEvent) : NextInv (hostEvent e s) := by
  cases e with
  | read n => exact .next (inv_of_same h)
  | write n v =>
    rw [hostEvent]
    split
    · exact inv_writeCmd h v
    · exact .next (inv_hostWrite h n v)
  | reset => exact .next (inv_resetCore s)

theorem inv_step {s : State} (h : Inv s) : NextInv (step s) := by
  cases hp : s.pending with
  | nil => rw [step_idle hp]; exact .next h
  | cons e rest =>
    rw [step, serveNext, hp]
    exact inv_hostEvent (inv_of_same h) e

/-- Settles O56: by the event the step serves, and the exits of the command a write to CMD runs. -/
theorem everyStepKeepsTheInvariant : Obligations.EveryStepKeepsTheInvariant := by
  intro s t h hstep
  obtain ⟨u, hu, hinv⟩ := inv_step h
  cases hu.symm.trans hstep
  exact hinv

end Sys2Proof.Proofs
end

section
/-! The access matrix (`10_state.md` R41): what each command leaves alone. -/

namespace Sys2Proof.Proofs

open Sys2Proof.Machine Sys2Proof.Claims

/-- `t` agrees with `s` in the registers that R41 leaves blank in the row of `i`. -/
def KeepsRow (i : Instr) (s t : State) : Prop :=
  t.opa = s.opa ∧ t.opb = s.opb ∧ t.pending = s.pending ∧ t.readData = s.readData ∧
  (i ≠ .gfmul → i ≠ .subbF → i ≠ .subbI → t.res = s.res) ∧
  (i ∉ topLevel → t.key = s.key ∧ t.klen = s.klen ∧ t.mkey = s.mkey ∧ t.mklen = s.mklen) ∧
  (i ≠ .openContainer → t.iv = s.iv ∧ t.ivlen = s.ivlen) ∧
  (i ∉ topLevel → i ≠ .kexp → t.rk = s.rk ∧ t.rkv = s.rkv ∧ t.nr = s.nr) ∧
  (i ∉ topLevel → i ≠ .pad → t.buf = s.buf) ∧
  (i ∉ topLevel → i ≠ .pad → i ≠ .unpad → t.len = s.len) ∧
  (i ∉ topLevel → i ≠ .subsF → i ≠ .subsI → i ≠ .shrF → i ≠ .shrI → i ≠ .mixcF → i ≠ .mixcI →
    (∀ r, i ≠ .addrk r) → i ≠ .encb → i ≠ .decb → t.st = s.st)

/-- An error of a primitive command writes only ERR, SUB and the hidden registers. -/
theorem keepsRow_raiseError (i : Instr) (e : CmdError) (s : State) :
    KeepsRow i s (raiseError .primitive e s) := by
  simp [KeepsRow]

/-- The row of a top-level command leaves blank only what the discard keeps. -/
theorem EndsDiscarded.keepsRow {i : Instr} {s t : State} {x : Block} {n : Byte}
    (h : EndsDiscarded { s with iv := x, ivlen := n } t) (hi : i ∈ topLevel)
    (hiv : i ≠ .openContainer → x = s.iv ∧ n = s.ivlen) : KeepsRow i s t := by
  rw [h.frame]
  simp only [KeepsRow, hi, not_true_eq_false, false_imp_iff, true_and, and_true]
  exact ⟨rfl, rfl, rfl, rfl, fun _ _ _ => rfl, hiv⟩

theorem keepsRow_blockCommand {i : Instr} (hi : BlockCommand i) (s : State) :
    ∃ t, exec i s = .next t ∧ KeepsRow i s t := by
  have hst (x : Block) : KeepsRow i s (succeed { s with st := x }) := by
    rcases hi with ⟨r, rfl⟩ | rfl | rfl <;> simp [KeepsRow]
  rcases exec_blockCommand_cases hi s with he | ⟨x, he | he⟩
  · exact ⟨_, he, keepsRow_raiseError _ _ s⟩
  · exact ⟨_, he, hst x⟩
  · exact ⟨_, he, hst x⟩

theorem keepsRow_kexp (s : State) : ∃ t, execKexp s = .next t ∧ KeepsRow .kexp s t := by
  rcases execKexp_cases s with he | ⟨v, -, he⟩
  · exact ⟨_, he, keepsRow_raiseError _ _ s⟩
  · exact ⟨_, he, by simp [KeepsRow]⟩

theorem keepsRow_pad (s : State) : KeepsRow .pad s (padCommand Config.params s) := by
  rcases padCommand_cases Config.params s with he | ⟨-, n, he⟩ <;> rw [he]
  · exact keepsRow_raiseError _ _ s
  · simp [KeepsRow]

theorem keepsRow_unpad (s : State) : KeepsRow .unpad s (unpadCommand Config.params s) := by
  rcases unpadCommand_cases Config.params s with ⟨e, -, he⟩ | ⟨n, he⟩ <;> rw [he]
  · exact keepsRow_raiseError _ _ s
  · simp [KeepsRow]

theorem keepsRow_exec (i : Instr) (s : State) (hz : i ≠ .zeroize) :
    ∃ t, exec i s = .next t ∧ KeepsRow i s t := by
  cases i with
  | zeroize => exact absurd rfl hz
  | nop | gfmul | subbF | subbI | subsF | subsI | shrF | shrI | mixcF | mixcI =>
    exact ⟨_, rfl, by simp [KeepsRow, substituteOpa, substituteSt, shiftSt, mixSt]⟩
  | addrk r => exact keepsRow_blockCommand (.inl ⟨r, rfl⟩) s
  | encb => exact keepsRow_blockCommand (.inr (.inl rfl)) s
  | decb => exact keepsRow_blockCommand (.inr (.inr rfl)) s
  | kexp => exact keepsRow_kexp s
  | pad => exact ⟨_, rfl, keepsRow_pad s⟩
  | unpad => exact ⟨_, rfl, keepsRow_unpad s⟩
  | cbcenc =>
    exact ⟨_, rfl, (cbcencCommand_endsDiscarded s).keepsRow (by decide) fun _ => ⟨rfl, rfl⟩⟩
  | cbcdec =>
    exact ⟨_, rfl, (cbcdecCommand_endsDiscarded s).keepsRow (by decide) fun _ => ⟨rfl, rfl⟩⟩
  | sealContainer =>
    exact ⟨_, rfl, (sealCommand_endsDiscarded s).keepsRow (by decide) fun _ => ⟨rfl, rfl⟩⟩
  | openContainer =>
    obtain ⟨x, n, h⟩ := openCommand_endsDiscarded s
    exact ⟨_, rfl, h.keepsRow (by decide) (absurd rfl)⟩

/-- Settles O51: command by command, from the ways each can end. -/
theorem commandsKeepTheAccessMatrix : Obligations.CommandsKeepTheAccessMatrix := keepsRow_exec

end Sys2Proof.Proofs
end

section
/-! Bytes of KEY at KLEN and above, and of MKEY at MKLEN and above, are ignored (`10_state.md` R31,
R34; `60_exceptions.md` R268), and ADDRK, ENCB and DECB ignore KEY and KLEN altogether (R23, R289).
A command either commutes with a change of these registers, or clears them and ends in the same
state. -/

namespace Sys2Proof.Proofs

open Sys2Proof.Machine Sys2Proof.Claims

/-- `s` with other contents of KEY, KLEN and MKEY. -/
def withKeys (k : Vector Byte 32) (n : Byte) (m : Vector Byte 256) (s : State) : State :=
  { s with key := k, klen := n, mkey := m }

/-- The command completes from `s` and from `f s`, and the change `f` is still there at the end. -/
def Commutes (f : State → State) (c : State → Host.Outcome State Fault Refusal) (s : State) :
    Prop :=
  ∃ t, c s = .next t ∧ c (f s) = .next (f t)

section KeyFiles

variable {k : Vector Byte 32} {n : Byte} {m : Vector Byte 256} {s : State} {v : Variant}

theorem take_toList_eq {w l : Nat} {x y : Vector Byte w}
    (h : ∀ j : Fin w, j.val < l → x[j] = y[j]) : x.toList.take l = y.toList.take l := by
  refine List.ext_getElem (by simp) fun j hx _ => ?_
  rw [List.length_take, Vector.length_toList] at hx
  simpa using h ⟨j, by omega⟩ (by simp only; omega)

/-! ## Commands that do not use the keys -/

theorem commutes_blockCommand {i : Instr} (hi : BlockCommand i) :
    Commutes (withKeys k n m) (exec i) s := by
  have hv : heldVariant (withKeys k n m s) = heldVariant s := rfl
  have hr (r : Nat) : heldRoundKey (withKeys k n m s) r = heldRoundKey s r := rfl
  rcases hi with ⟨r, rfl⟩ | rfl | rfl <;> unfold Commutes <;> dsimp only [exec]
  · rw [execAddrk, execAddrk, hr]
    cases heldRoundKey s r <;> exact ⟨_, rfl, rfl⟩
  · rw [execEncb, execEncb, hv]
    cases heldVariant s <;> exact ⟨_, rfl, rfl⟩
  · rw [execDecb, execDecb, hv]
    cases heldVariant s <;> exact ⟨_, rfl, rfl⟩

theorem padCommand_withKeys (P : Params) :
    padCommand P (withKeys k n m s) = withKeys k n m (padCommand P s) := by
  unfold padCommand
  rw [apply_ite (withKeys k n m)]
  rfl

theorem unpadCommand_withKeys (P : Params) :
    unpadCommand P (withKeys k n m s) = withKeys k n m (unpadCommand P s) := by
  unfold unpadCommand
  simp only [apply_ite (withKeys k n m)]
  rfl

/-! ## Commands that use KEY[0..KLEN) -/

theorem expandState_withKeys (hk : keyBytes (withKeys k s.klen m s) = keyBytes s) :
    expandState (withKeys k s.klen m s) = withKeys k s.klen m (expandState s) := by
  unfold expandState
  rw [hk]
  rfl

theorem commutes_kexp (hk : keyBytes (withKeys k s.klen m s) = keyBytes s) :
    Commutes (withKeys k s.klen m) execKexp s := by
  have hv : keyVariant (withKeys k s.klen m s) = keyVariant s := rfl
  unfold Commutes execKexp
  rw [hv, expandState_withKeys hk]
  cases keyVariant s <;> exact ⟨_, rfl, rfl⟩

theorem cbcEncBlocks_withKeys (j b : Nat) :
    cbcEncBlocks v j b (withKeys k n m s) = withKeys k n m (cbcEncBlocks v j b s) := by
  induction j generalizing b s with
  | zero => rfl
  | succ j ih => exact ih (s := cbcEncBlock v b s) (b + 1)

theorem cbcDecBlocks_withKeys (j b : Nat) :
    cbcDecBlocks v j b (withKeys k n m s) = withKeys k n m (cbcDecBlocks v j b s) := by
  induction j generalizing b s with
  | zero => rfl
  | succ j ih => exact ih (s := cbcDecBlock v b s) (b + 1)

theorem cbcEncrypt_withKeys (hk : keyBytes (withKeys k s.klen m s) = keyBytes s) :
    cbcEncrypt v (withKeys k s.klen m s) = withKeys k s.klen m (cbcEncrypt v s) := by
  have h : encryptPadded v (withKeys k s.klen m s) = withKeys k s.klen m (encryptPadded v s) := by
    unfold encryptPadded
    rw [expandState_withKeys hk]
    exact cbcEncBlocks_withKeys (s := chainFromIv (writePad (expandState s))) _ _
  unfold cbcEncrypt
  rw [h]
  rfl

theorem cbcDecryptInPlace_withKeys (l : Nat)
    (hk : keyBytes (withKeys k s.klen m s) = keyBytes s) :
    cbcDecryptInPlace v l (withKeys k s.klen m s) = cbcDecryptInPlace v l s := by
  have h : cbcDecrypt v l (withKeys k s.klen m s) = withKeys k s.klen m (cbcDecrypt v l s) := by
    unfold cbcDecrypt
    rw [expandState_withKeys hk]
    exact cbcDecBlocks_withKeys (s := chainFromIv (expandState s)) _ _
  unfold cbcDecryptInPlace
  rw [h]
  rfl

theorem cbcencCommand_withKeys (P : Params) (hk : keyBytes (withKeys k s.klen m s) = keyBytes s) :
    cbcencCommand P (withKeys k s.klen m s) = cbcencCommand P s := by
  have hv : keyVariant (withKeys k s.klen m s) = keyVariant s := rfl
  unfold cbcencCommand
  rw [hv]
  cases keyVariant s with
  | none => rfl
  | some v =>
    dsimp only
    rw [cbcEncrypt_withKeys hk]
    rfl

theorem cbcdecCommand_withKeys (P : Params) (hk : keyBytes (withKeys k s.klen m s) = keyBytes s) :
    cbcdecCommand P (withKeys k s.klen m s) = cbcdecCommand P s := by
  have hv : keyVariant (withKeys k s.klen m s) = keyVariant s := rfl
  unfold cbcdecCommand
  rw [hv]
  cases keyVariant s with
  | none => rfl
  | some v =>
    dsimp only
    rw [cbcDecryptInPlace_withKeys _ hk]
    rfl

/-! ## Commands that use MKEY[0..MKLEN) as well -/

theorem appendIvAndTag_withKeys (P : Params)
    (hm : macKeyBytes (withKeys k n m s) = macKeyBytes s) :
    appendIvAndTag P (withKeys k n m s) = withKeys k n m (appendIvAndTag P s) := by
  have hreq (x : Memory) (l : Nat) :
      macRequest P l { withKeys k n m s with buf := x } = macRequest P l { s with buf := x } :=
    congrArg (P.mac · (x.readBytes 0 l)) hm
  unfold appendIvAndTag
  simp only [hreq]
  rfl

theorem macKeyBytes_cbcEncrypt : macKeyBytes (cbcEncrypt v s) = macKeyBytes s := by
  rw [cbcEncrypt_frame]
  rfl

theorem sealCommand_withKeys (P : Params) (hk : keyBytes (withKeys k s.klen m s) = keyBytes s)
    (hm : macKeyBytes (withKeys k s.klen m s) = macKeyBytes s) :
    sealCommand P (withKeys k s.klen m s) = sealCommand P s := by
  have hv : keyVariant (withKeys k s.klen m s) = keyVariant s := rfl
  unfold sealCommand
  rw [hv]
  cases keyVariant s with
  | none => rfl
  | some v =>
    have hm' : macKeyBytes (withKeys k s.klen m (cbcEncrypt v s)) =
        macKeyBytes (cbcEncrypt v s) := by
      rw [macKeyBytes_cbcEncrypt, ← hm, cbcEncrypt_frame]
      rfl
    dsimp only
    rw [cbcEncrypt_withKeys hk, appendIvAndTag_withKeys P hm']
    rfl

theorem recomputeTag_withKeys (P : Params) (l : Nat)
    (hm : macKeyBytes (withKeys k n m s) = macKeyBytes s) :
    recomputeTag P l (withKeys k n m s) = withKeys k n m (recomputeTag P l s) := by
  unfold recomputeTag macRequest
  rw [hm]
  rfl

theorem openCommand_withKeys (P : Params) (hk : keyBytes (withKeys k s.klen m s) = keyBytes s)
    (hm : macKeyBytes (withKeys k s.klen m s) = macKeyBytes s) :
    openCommand P (withKeys k s.klen m s) = openCommand P s := by
  have hv : keyVariant (withKeys k s.klen m s) = keyVariant s := rfl
  unfold openCommand
  rw [hv]
  cases keyVariant s with
  | none => rfl
  | some v =>
    have hdec (l : Nat) : cbcDecryptInPlace v l
          (loadContainerIv l (withKeys k s.klen m (recomputeTag P l s))) =
        cbcDecryptInPlace v l (loadContainerIv l (recomputeTag P l s)) :=
      cbcDecryptInPlace_withKeys (s := loadContainerIv l (recomputeTag P l s)) l hk
    dsimp only
    rw [recomputeTag_withKeys P _ hm, show lenOf (withKeys k s.klen m s) = lenOf s from rfl, hdec]
    rfl

/-! ## All commands -/

/-- The commands that clear KEY and MKEY end in the same state. -/
theorem exec_withKeys_of_clears {i : Instr} (hi : i = .zeroize ∨ i ∈ topLevel)
    (hk : keyBytes (withKeys k s.klen m s) = keyBytes s)
    (hm : macKeyBytes (withKeys k s.klen m s) = macKeyBytes s) :
    ∃ t, exec i s = .next t ∧ exec i (withKeys k s.klen m s) = .next t := by
  simp only [topLevel, List.mem_cons, List.not_mem_nil, or_false] at hi
  rcases hi with rfl | rfl | rfl | rfl | rfl
  · exact ⟨_, rfl, rfl⟩
  · exact ⟨_, rfl, congrArg Host.Outcome.next (cbcencCommand_withKeys _ hk)⟩
  · exact ⟨_, rfl, congrArg Host.Outcome.next (cbcdecCommand_withKeys _ hk)⟩
  · exact ⟨_, rfl, congrArg Host.Outcome.next (sealCommand_withKeys _ hk hm)⟩
  · exact ⟨_, rfl, congrArg Host.Outcome.next (openCommand_withKeys _ hk hm)⟩

/-- Every other command keeps them as they are. -/
theorem commutes_exec {i : Instr} (hz : i ≠ .zeroize) (hi : i ∉ topLevel)
    (hk : keyBytes (withKeys k s.klen m s) = keyBytes s) :
    Commutes (withKeys k s.klen m) (exec i) s := by
  cases i with
  | zeroize => exact absurd rfl hz
  | cbcenc | cbcdec | sealContainer | openContainer => exact absurd (by decide) hi
  | nop | gfmul | subbF | subbI | subsF | subsI | shrF | shrI | mixcF | mixcI =>
    exact ⟨_, rfl, rfl⟩
  | addrk r => exact commutes_blockCommand (.inl ⟨r, rfl⟩)
  | encb => exact commutes_blockCommand (.inr (.inl rfl))
  | decb => exact commutes_blockCommand (.inr (.inr rfl))
  | kexp => exact commutes_kexp hk
  | pad => exact ⟨_, rfl, congrArg _ (padCommand_withKeys _)⟩
  | unpad => exact ⟨_, rfl, congrArg _ (unpadCommand_withKeys _)⟩

/-- A command that leaves the keys alone, with the registers it leaves. -/
theorem Commutes.keys {i : Instr} (h : Commutes (withKeys k n m) (exec i) s) (hz : i ≠ .zeroize)
    (hi : i ∉ topLevel) : ∃ t, exec i s = .next t ∧
      exec i (withKeys k n m s) = .next (withKeys k n m t) ∧
      t.key = s.key ∧ t.klen = s.klen ∧ t.mkey = s.mkey := by
  obtain ⟨t, ht, ht'⟩ := h
  obtain ⟨u, hu, -, -, -, -, -, hkeys, -⟩ := keepsRow_exec i s hz
  cases ht.symm.trans hu
  obtain ⟨hkey, hklen, hmkey, -⟩ := hkeys hi
  exact ⟨t, ht, ht', hkey, hklen, hmkey⟩

/-- Other bytes beyond KLEN and MKLEN: a command ends in the same state but for KEY and MKEY, and
keeps each of the two files or clears it. -/
theorem exec_withKeys (i : Instr) (hk : keyBytes (withKeys k s.klen m s) = keyBytes s)
    (hm : macKeyBytes (withKeys k s.klen m s) = macKeyBytes s) :
    ∃ t t', exec i s = .next t ∧ exec i (withKeys k s.klen m s) = .next t' ∧
      t' = { t with key := t'.key, mkey := t'.mkey } ∧ (k = s.key → t'.key = t.key) ∧
      (m = s.mkey → t'.mkey = t.mkey) := by
  by_cases hi : i = .zeroize ∨ i ∈ topLevel
  · obtain ⟨t, ht, ht'⟩ := exec_withKeys_of_clears hi hk hm
    exact ⟨t, t, ht, ht', rfl, fun _ => rfl, fun _ => rfl⟩
  · obtain ⟨hz, hi⟩ := not_or.1 hi
    obtain ⟨t, ht, ht', hkey, hklen, hmkey⟩ := (commutes_exec hz hi hk).keys hz hi
    exact ⟨t, _, ht, ht', by rw [← hklen]; rfl, fun h => h.trans hkey.symm,
      fun h => h.trans hmkey.symm⟩

end KeyFiles

/-- Settles O53: with MKEY as it is. -/
theorem keyTailIsIgnored : Obligations.KeyTailIsIgnored := by
  intro i s k hk
  obtain ⟨t, t', ht, ht', heq, -, hmkey⟩ :=
    exec_withKeys (s := s) (k := k) (m := s.mkey) i (take_toList_eq hk) rfl
  exact ⟨t, t', ht, ht', by rw [hmkey rfl] at heq; exact heq⟩

/-- Settles O54: with KEY as it is. -/
theorem macKeyTailIsIgnored : Obligations.MacKeyTailIsIgnored := by
  intro i s m hm
  obtain ⟨t, t', ht, ht', heq, hkey, -⟩ :=
    exec_withKeys (s := s) (k := s.key) (m := m) i rfl (take_toList_eq hm)
  exact ⟨t, t', ht, ht', by rw [hkey rfl] at heq; exact heq⟩

/-- Settles O35: the three commands look for their schedule in RK, RKV and NR alone. -/
theorem blockCommandsIgnoreTheKeyRegisters : Obligations.BlockCommandsIgnoreTheKeyRegisters := by
  intro s i k n hi
  have hz : i ≠ .zeroize := by rintro rfl; simp at hi
  have htop : i ∉ topLevel := by rcases hi with ⟨r, rfl⟩ | rfl | rfl <;> simp [topLevel]
  obtain ⟨t, ht, ht', -, -, hmkey⟩ :=
    (commutes_blockCommand (k := k) (n := n) (m := s.mkey) (s := s) hi).keys hz htop
  exact ⟨t, ht, by rw [← hmkey] at ht' ⊢; exact ht'⟩

end Sys2Proof.Proofs
end

section
/-! The host's side of the registers (`10_state.md` R22, R24, R25, R30, R35, R39; `20_memory.md`
R61 to R65, R73): STATUS, one access a step, reads and writes by number, and the reset values. -/

namespace Sys2Proof.Proofs

open Sys2Proof.Machine Sys2Proof.Claims

/-! ## STATUS -/

theorem toNat_append_eq {a b : Nat} (x : BitVec a) (y : BitVec b) :
    (x ++ y).toNat = 2 ^ b * x.toNat + y.toNat := by
  rw [BitVec.toNat_append, ← Nat.shiftLeft_add_eq_or_of_lt y.isLt, Nat.shiftLeft_eq, Nat.mul_comm]

theorem toNat_statusWord (s : State) :
    (statusWord s).toNat =
      s.err.toNat + 16 * s.sub.toNat + 128 * s.rkv.toNat + 256 * s.nr.toNat := by
  simp only [statusWord, toNat_append_eq, BitVec.toNat_ofBool, BitVec.toNat_ofNat]
  omega

/-- Settles O15: the fields are the digits of STATUS in a mixed radix. -/
theorem statusFieldsStandInPlace : Obligations.StatusFieldsStandInPlace := by
  intro s
  have herr := s.err.isLt
  have hsub := s.sub.isLt
  have hrkv := s.rkv.toNat_lt
  have hnr := s.nr.isLt
  rw [toNat_statusWord]
  omega

/-! ## One access a step -/

theorem cmdWordOf_eq (v : Word32) : cmdWordOf v = BitVec.ofNat 16 (v.toNat % 65536) := by
  apply BitVec.eq_of_toNat_eq
  simp [cmdWordOf]

theorem writeCmd_of_decode {v : Word32} {i : Instr}
    (h : decode (BitVec.ofNat 16 (v.toNat % 65536)) = .ok i) (s : State) :
    writeCmd v s = exec i s := by
  rw [writeCmd, cmdWordOf_eq, h]

theorem decode_of_decodeTableWord {w : Nat} {i : Instr} (h : decodeTableWord 16 w = some i) :
    decode (BitVec.ofNat 16 (w % 2 ^ 16)) = .ok i := by
  unfold decodeTableWord at h
  cases hd : decode (BitVec.ofNat 16 (w % 2 ^ 16)) with
  | error e => rw [hd] at h; cases h
  | ok j => rw [hd] at h; cases h; rfl

/-- A step on a table word is a step on the write of it to CMD. -/
theorem step_withFetchWord {s : State} {w : Nat} {i : Instr}
    (h : decodeTableWord 16 w = some i) : step (s.withFetchWord 16 w) = exec i s := by
  rw [step_command (s := s.withFetchWord 16 w) rfl]
  refine writeCmd_of_decode ?_ s
  have hw : (BitVec.ofNat 32 (w % 2 ^ 16 % 2 ^ 16)).toNat % 65536 = w % 2 ^ 16 := by
    rw [BitVec.toNat_ofNat]
    omega
  rw [hw]
  exact decode_of_decodeTableWord h

/-- Settles O5: by the access that waits. -/
theorem stepRunsTheWrittenCommand : Obligations.StepRunsTheWrittenCommand := by
  refine ⟨fun s v rest i hp hd => ?_, fun s w i hd => step_withFetchWord hd,
    fun s n v rest hp hn => step_write hp hn, fun s v rest hp => step_command hp,
    fun s hp => step_idle hp⟩
  rw [step_command hp, writeCmd_of_decode hd]

/-! ## Reads and writes by number -/

theorem toNat_hostRead {P : Params} {n : Word32} {l : Nat} {r : Reg} (hn : n.toNat = l)
    (hr : regAt P l = r) (s : State) : (hostRead P n s).toNat = (regValue P r s).toNat := by
  rw [hostRead, hn, hr]

theorem toNat_regValue_cap (s : State) :
    (regValue Config.params .cap s).toNat = Config.params.bufCap :=
  Nat.mod_eq_of_lt (Config.lt_of_le_bufCap le_rfl)

theorem toNat_regValue_maclen (s : State) :
    (regValue Config.params .maclen s).toNat = Config.params.macLen := by
  refine (BitVec.toNat_setWidth_of_le (by decide)).trans (Nat.mod_eq_of_lt ?_)
  exact Nat.lt_succ_of_le Config.macLen_le

theorem toNat_hostRead_zero {P : Params} {n : Word32} {l : Nat} (hn : n.toNat = l)
    (hl : regAt P l = .cmd ∨ regAt P l = .unmapped) (s : State) : (hostRead P n s).toNat = 0 := by
  rcases hl with hl | hl <;> exact toNat_hostRead hn hl s

/-- Settles O7: clause by clause, by the row of the register map that has the number. -/
theorem hostReadReturnsTheNamedRegister : Obligations.HostReadReturnsTheNamedRegister := by
  intro s n rest hp
  have zext {w : Nat} {x : BitVec w} (hw : w ≤ 32) : (x.zeroExtend 32).toNat = x.toNat :=
    BitVec.toNat_setWidth_of_le hw
  refine ⟨_, step_read hp, ?_, ?_, ?_, ?_, ?_, ?_, ?_, ?_, ?_, ?_, ?_, ?_, ?_, ?_, ?_, ?_, ?_⟩
  · rintro (h | h)
    · exact toNat_hostRead_zero h (.inl rfl) _
    · exact toNat_hostRead_zero rfl (.inr (regAt_unmapped _ _ h)) _
  · exact fun h => (toNat_hostRead h rfl _).trans ((zext (by decide)).trans (toNat_statusWord s))
  · exact fun h => (toNat_hostRead h rfl _).trans (zext (by decide))
  · exact fun h => (toNat_hostRead h rfl _).trans (zext (by decide))
  · exact fun h => (toNat_hostRead h rfl _).trans (zext (by decide))
  · exact fun h => (toNat_hostRead h rfl _).trans (zext (by decide))
  · exact fun h => (toNat_hostRead h rfl _).trans (zext (by decide))
  · exact fun h => (toNat_hostRead h rfl _).trans (zext (by decide))
  · exact fun h => toNat_hostRead h rfl _
  · exact fun h => (toNat_hostRead h rfl _).trans (toNat_regValue_cap s)
  · exact fun h => (toNat_hostRead h rfl _).trans (toNat_regValue_maclen s)
  · exact fun i h => (toNat_hostRead h (regAt_st _ i) _).trans (zext (by decide))
  · exact fun i h => (toNat_hostRead h (regAt_iv _ i) _).trans (zext (by decide))
  · exact fun i h => (toNat_hostRead h (regAt_key _ i) _).trans (zext (by decide))
  · exact fun i h => (toNat_hostRead h (regAt_rk _ i) _).trans (zext (by decide))
  · exact fun i h => (toNat_hostRead h (regAt_mkey _ i) _).trans (zext (by decide))
  · exact fun i hi h => (toNat_hostRead h (regAt_buf _ i hi) _).trans (zext (by decide))

theorem toNat_bufNumber {i : Nat} (h : i < Config.params.bufCap) :
    (BitVec.ofNat 32 (0x10000 + i)).toNat = 0x10000 + i := by
  have := Config.bufCap_le
  rw [BitVec.toNat_ofNat]
  omega

/-- Settles O9: the number names the byte, and a byte file reads what was written. -/
theorem bufWriteThenRead : Obligations.BufWriteThenRead := by
  intro s i v hwf hi
  have hreg : regAt Config.params (BitVec.ofNat 32 (0x10000 + i)).toNat = .buf i := by
    rw [toNat_bufNumber hi, regAt_buf _ _ hi]
  have hwrite : hostWrite Config.params (BitVec.ofNat 32 (0x10000 + i)) v s =
      { s with buf := s.buf.write i (v.truncate 8) } := by
    rw [hostWrite, hreg]
    rfl
  dsimp only
  rw [hwrite]
  constructor
  · rw [toNat_hostRead rfl hreg, regValue, BitVec.toNat_setWidth_of_le (by decide),
      Memory.read_write hwf, if_pos rfl]
    exact BitVec.toNat_setWidth ..
  · exact fun a ha => (Memory.read_write hwf i _ a).trans (if_neg ha)

/-! ## Reset -/

theorem regValue_reset (P : Params) {r : Reg} (hcap : r ≠ .cap) (hmac : r ≠ .maclen) :
    regValue P r State.reset = 0 := by
  cases r with
  | cap => exact absurd rfl hcap
  | maclen => exact absurd rfl hmac
  | st | iv | key | rk | mkey => simp [regValue, State.reset]
  | cmd | status | opa | opb | res | klen | ivlen | mklen | len | buf | unmapped => rfl

theorem hostRead_reset (P : Params) {n : Word32} (hcap : n ≠ 9) (hmac : n ≠ 10) :
    hostRead P n State.reset = 0 := by
  refine regValue_reset P (fun h => hcap ?_) (fun h => hmac ?_)
  · exact BitVec.eq_of_toNat_eq (hasNumber_of_regAt h)
  · exact BitVec.eq_of_toNat_eq (hasNumber_of_regAt h)

/-- With no key loaded every command that uses one reports KeyMaterialUnavailable(1). -/
theorem exec_reset_of_usesKey {i : Instr} (hi : i ∈ Instr.kexp :: topLevel) :
    ∃ t, exec i State.reset = .next t ∧ t.err = 1 ∧ t.sub = 1 := by
  simp only [topLevel, List.mem_cons, List.not_mem_nil, or_false] at hi
  rcases hi with rfl | rfl | rfl | rfl | rfl <;> exact ⟨_, rfl, rfl, rfl⟩

/-- Settles O11: register by register, and the five commands one by one. -/
theorem resetClearsEveryRegister : Obligations.ResetClearsEveryRegister :=
  ⟨fun _ hcap hmac => hostRead_reset _ hcap hmac, toNat_regValue_cap _,
    toNat_regValue_maclen _, rfl, fun _ => rfl, fun _ hi => exec_reset_of_usesKey hi⟩

end Sys2Proof.Proofs
end

section
/-! The footprint of a command in BUF (`20_memory.md` R71; R192 to R195, R214, R215): the commands
that write BUF write only between two indices computed from LEN, and pass a capacity check first. -/

namespace Sys2Proof.Proofs

open Sys2Proof.Machine Sys2Proof.Claims

/-- From `s` to `t` BUF changes only at the indices from `r.1` up to `r.2`, and those lie inside
BUF_CAP if `t` reports success. -/
def StoresWithin (r : Nat × Nat) (s t : State) : Prop :=
  (∀ a, a < r.1 ∨ r.2 ≤ a → t.buf.read a = s.buf.read a) ∧
    (t.err = 0 → r.2 ≤ Config.params.bufCap)

theorem storesWithin_of_le {r : Nat × Nat} {s t : State} (hcap : r.2 ≤ Config.params.bufCap)
    (hread : ∀ a, a < r.1 ∨ r.2 ≤ a → t.buf.read a = s.buf.read a) : StoresWithin r s t :=
  ⟨hread, fun _ => hcap⟩

/-- A range that begins at index 0 leaves only the indices at its end and above outside. -/
theorem storesWithin_zero {n : Nat} {s t : State} (hcap : n ≤ Config.params.bufCap)
    (hread : ∀ a, n ≤ a → t.buf.read a = s.buf.read a) : StoresWithin (0, n) s t :=
  storesWithin_of_le hcap fun a ha => hread a (ha.resolve_left (Nat.not_lt_zero a))

theorem code_ne_zero (e : CmdError) : e.code ≠ 0 := by
  cases e <;> simp [CmdError.code]

/-- An error stores nothing by itself, and it is no success. -/
theorem storesWithin_raiseError (r : Nat × Nat) (k : CommandKind) (e : CmdError) (s : State) :
    StoresWithin r s (raiseError k e s) := by
  cases k <;> exact ⟨fun _ _ => rfl, fun h => absurd h (code_ne_zero e)⟩

/-! ## The five commands that write BUF -/

theorem storesWithin_pad {s : State} (hwf : s.buf.wf) :
    StoresWithin (footprint .pad s) s (padCommand Config.params s) := by
  rcases padCommand_cases Config.params s with h | ⟨hcap, n, h⟩ <;> rw [h]
  · exact storesWithin_raiseError ..
  · refine storesWithin_of_le hcap fun a ha => ?_
    have hout : ¬(lenOf s ≤ a ∧ a < lenOf s + padLen (lenOf s)) := fun hin =>
      ha.elim (Nat.not_lt.2 hin.1) (Nat.not_le.2 hin.2)
    exact (read_writePad hwf a).trans (if_neg hout)

/-- Every outcome of the decryption leaves the bytes behind the ciphertext alone; a bad pad byte
erases the ciphertext's own place (R256). -/
theorem storesWithin_cbcDecryptInPlace (v : Variant) {n : Nat} {s : State} (hwf : s.buf.wf)
    (hn : n ≤ Config.params.bufCap) : StoresWithin (0, n) s (cbcDecryptInPlace v n s) := by
  refine storesWithin_zero hn fun a ha => ?_
  have hdec : (cbcDecrypt v n s).buf.read a = s.buf.read a := read_cbcDecrypt_of_le hwf ha
  rcases cbcDecryptInPlace_cases (v := v) n s with ⟨-, h⟩ | ⟨-, -, h⟩ | ⟨-, -, h⟩ <;> rw [h]
  · rfl
  · have herase := read_eraseDecrypted (wf_cbcDecrypt (v := v) n hwf) n a
    rw [if_neg (Nat.not_lt.2 ha)] at herase
    exact herase.trans hdec
  · exact hdec

theorem storesWithin_cbcenc {s : State} (hwf : s.buf.wf) :
    StoresWithin (footprint .cbcenc s) s (cbcencCommand Config.params s) := by
  unfold cbcencCommand
  split
  · exact storesWithin_raiseError ..
  split
  · exact storesWithin_raiseError ..
  split
  · exact storesWithin_raiseError ..
  next hcap =>
    exact storesWithin_zero (Nat.le_of_not_lt hcap) fun a ha => read_encryptPadded_of_le hwf ha

theorem storesWithin_cbcdec {s : State} (hwf : s.buf.wf) :
    StoresWithin (footprint .cbcdec s) s (cbcdecCommand Config.params s) := by
  unfold cbcdecCommand
  split
  · exact storesWithin_raiseError ..
  split
  · exact storesWithin_raiseError ..
  split
  · exact storesWithin_raiseError ..
  next v _ _ hcap => exact storesWithin_cbcDecryptInPlace v hwf (Nat.le_of_not_lt hcap)

/-- The IV and the tag stand directly behind the ciphertext (R210). -/
theorem read_appendIvAndTag_of_le {s : State} (hwf : s.buf.wf) {a : Nat}
    (ha : lenOf s + 16 + Config.params.macLen ≤ a) :
    (appendIvAndTag Config.params s).buf.read a = s.buf.read a := by
  unfold appendIvAndTag
  rw [Memory.read_writeBytes (Memory.wf_writeBlock hwf _ _), macRequest, Config.length_mac,
    if_neg (by omega), Memory.read_writeBlock hwf, dif_neg (by omega)]

theorem storesWithin_seal {s : State} (hwf : s.buf.wf) :
    StoresWithin (footprint .sealContainer s) s (sealCommand Config.params s) := by
  unfold sealCommand
  split
  · exact storesWithin_raiseError ..
  split
  · exact storesWithin_raiseError ..
  split
  · exact storesWithin_raiseError ..
  split
  · exact storesWithin_raiseError ..
  next v _ _ _ hcap =>
    refine storesWithin_zero (Nat.le_of_not_lt hcap) fun a ha => ?_
    have hend : lenOf s + padLen (lenOf s) + 16 + Config.params.macLen ≤ a := ha
    have hlen := lenOf_cbcEncrypt_le v s
    have henc : (cbcEncrypt v s).buf.read a = s.buf.read a :=
      read_encryptPadded_of_le hwf (by omega)
    have hwfEnc : (cbcEncrypt v s).buf.wf := wf_encryptPadded hwf
    exact (read_appendIvAndTag_of_le hwfEnc (by omega)).trans henc

theorem storesWithin_open {s : State} (hwf : s.buf.wf) :
    StoresWithin (footprint .openContainer s) s (openCommand Config.params s) := by
  unfold openCommand
  split
  · exact storesWithin_raiseError ..
  split
  · exact storesWithin_raiseError ..
  split
  · exact storesWithin_raiseError ..
  split
  · exact storesWithin_raiseError ..
  next v _ _ hcap _ =>
    dsimp only
    split
    · exact storesWithin_raiseError _ _ _ (recomputeTag Config.params _ s)
    · have hn : cipherLen Config.params (lenOf s) ≤ Config.params.bufCap := by
        unfold cipherLen
        omega
      exact storesWithin_cbcDecryptInPlace v
        (s := loadContainerIv _ (recomputeTag Config.params _ s)) hwf hn

/-! ## Every command -/

/-- The other commands have an empty footprint, and R41 keeps BUF. -/
theorem storesWithin_of_not_stores {i : Instr} (s : State) (hz : i ≠ .zeroize) (hp : i ≠ .pad)
    (ht : i ∉ topLevel) : ∃ t, exec i s = .next t ∧ StoresWithin (footprint i s) s t := by
  obtain ⟨t, hexec, -, -, -, -, -, -, -, -, hbuf, -⟩ := keepsRow_exec i s hz
  have hempty : footprint i s = (0, 0) := by
    cases i with
    | zeroize => exact absurd rfl hz
    | pad => exact absurd rfl hp
    | cbcenc | cbcdec | sealContainer | openContainer => exact absurd (by decide) ht
    | nop | gfmul | subbF | subbI | subsF | subsI | shrF | shrI | mixcF | mixcI | addrk | kexp | encb
    | decb | unpad => rfl
  rw [hempty]
  exact ⟨t, hexec, storesWithin_zero (Nat.zero_le _) fun a _ => by rw [hbuf ht hp]⟩

/-- Settles O52: by the five commands that write BUF, and R41 for the others. -/
theorem storesStayInTheFootprint : Obligations.StoresStayInTheFootprint := by
  intro i s hwf hz
  by_cases hp : i = .pad
  · subst hp
    exact ⟨_, rfl, storesWithin_pad hwf⟩
  by_cases ht : i ∈ topLevel
  · simp only [topLevel, List.mem_cons, List.not_mem_nil, or_false] at ht
    rcases ht with rfl | rfl | rfl | rfl
    · exact ⟨_, rfl, storesWithin_cbcenc hwf⟩
    · exact ⟨_, rfl, storesWithin_cbcdec hwf⟩
    · exact ⟨_, rfl, storesWithin_seal hwf⟩
    · exact ⟨_, rfl, storesWithin_open hwf⟩
  · exact storesWithin_of_not_stores s hz hp ht

end Sys2Proof.Proofs
end

section
/-! What a write of the host to a register other than CMD does, and what it leaves alone
(`20_memory.md` R62, R63, R65, R70). -/

namespace Sys2Proof.Proofs

open Sys2Proof.Machine Sys2Proof.Claims

/-- A write goes to the register the map gives its number. -/
theorem hostWrite_of_regAt {P : Params} {n : Word32} {l : Nat} {r : Reg} (hn : n.toNat = l)
    (hr : regAt P l = r) (v : Word32) (s : State) : hostWrite P n v s = setReg r v s := by
  rw [hostWrite, hn, hr]

theorem hostWrite_readOnly {P : Params} {n : Word32} (h : ReadOnly n.toNat) (v : Word32)
    (s : State) : hostWrite P n v s = s := by
  rcases h with h | h | h | h | h
  · exact hostWrite_of_regAt h (regAt_status P) v s
  · exact hostWrite_of_regAt h (regAt_res P) v s
  · exact hostWrite_of_regAt h (regAt_cap P) v s
  · exact hostWrite_of_regAt h (regAt_maclen P) v s
  · have hn : n.toNat = 0x100 + (n.toNat - 0x100) := by omega
    exact hostWrite_of_regAt hn (regAt_rk P ⟨n.toNat - 0x100, by omega⟩) v s

theorem hostWrite_unmapped {n : Word32} (h : Unmapped n.toNat) (v : Word32) (s : State) :
    hostWrite Config.params n v s = s :=
  hostWrite_of_regAt rfl (regAt_unmapped _ _ h) v s

/-- Settles O8: clause by clause, by the row of the register map that has the number. -/
theorem hostWriteSetsOneRegister : Obligations.HostWriteSetsOneRegister := by
  intro s n v
  simp only [BitVec.ofNat_toNat]
  refine ⟨?_, ?_, ?_, ?_, ?_, ?_, ?_, ?_, ?_, ?_, ?_, ?_, ?_⟩
  · exact fun h => hostWrite_of_regAt h (regAt_opa _) v s
  · exact fun h => hostWrite_of_regAt h (regAt_opb _) v s
  · exact fun h => hostWrite_of_regAt h (regAt_klen _) v s
  · exact fun h => hostWrite_of_regAt h (regAt_ivlen _) v s
  · exact fun h => hostWrite_of_regAt h (regAt_mklen _) v s
  · exact fun h => hostWrite_of_regAt h (regAt_len _) v s
  · exact fun i h => hostWrite_of_regAt h (regAt_st _ i) v s
  · exact fun i h => hostWrite_of_regAt h (regAt_iv _ i) v s
  · exact fun i h => hostWrite_of_regAt h (regAt_key _ i) v s
  · exact fun i h => hostWrite_of_regAt h (regAt_mkey _ i) v s
  · exact fun i hi h => hostWrite_of_regAt h (regAt_buf _ i hi) v s
  · exact fun h => h.elim (hostWrite_readOnly · v s) (hostWrite_unmapped · v s)
  · exact fun i h => writeCmd_of_decode h s

/-! ## What no write to a register changes -/

@[simp] theorem statusWord_setReg (r : Reg) (v : Word32) (s : State) :
    statusWord (setReg r v s) = statusWord s := by
  cases r <;> rfl

@[simp] theorem setReg_rk (r : Reg) (v : Word32) (s : State) : (setReg r v s).rk = s.rk := by
  cases r <;> rfl

@[simp] theorem setReg_res (r : Reg) (v : Word32) (s : State) : (setReg r v s).res = s.res := by
  cases r <;> rfl

@[simp] theorem setReg_hidden (r : Reg) (v : Word32) (s : State) :
    (setReg r v s).hidden = s.hidden := by
  cases r <;> rfl

/-- Settles O58: a read stores only what it returns, and a write goes to one register, which is
none of these. -/
theorem hostAccessesLeaveTheStatus : Obligations.HostAccessesLeaveTheStatus := by
  intro s e rest hp he
  rcases he with ⟨n, rfl⟩ | ⟨n, v, rfl, hn⟩
  · exact ⟨_, step_read hp, rfl, rfl, rfl, rfl⟩
  · exact ⟨_, step_write hp hn, statusWord_setReg _ v _, setReg_rk _ v _, setReg_res _ v _,
      setReg_hidden _ v _⟩

end Sys2Proof.Proofs
end

section
/-! The word of a command (`30_encoding.md` R90, R92, R93, R95): a word decodes to a command exactly
when the command is well formed and the word is its encoding. The statements about opcodes, legal
words and masks are read off that equivalence, with a word taken as the number 256·RND + OPC. -/

namespace Sys2Proof.Proofs

open Sys2Proof.Machine Sys2Proof.Claims

/-! ## The fields of a word -/

theorem toNat_zeroField (w : CmdWord) : (zeroField w).toNat = w.toNat / 4096 := by
  have := w.isLt
  rw [zeroField, BitVec.extractLsb'_toNat, Nat.shiftRight_eq_div_pow]
  omega

theorem toNat_rndField (w : CmdWord) : (rndField w).toNat = w.toNat / 256 % 16 := by
  rw [rndField, BitVec.extractLsb'_toNat, Nat.shiftRight_eq_div_pow]

theorem toNat_opcField (w : CmdWord) : (opcField w).toNat = w.toNat % 256 :=
  BitVec.extractLsb'_toNat ..

/-- The three fields are all of a word (R90). -/
theorem word_ext {v w : CmdWord} (hz : zeroField v = zeroField w) (hr : rndField v = rndField w)
    (ho : opcField v = opcField w) : v = w := by
  have hz := congrArg BitVec.toNat hz
  have hr := congrArg BitVec.toNat hr
  have ho := congrArg BitVec.toNat ho
  rw [toNat_zeroField, toNat_zeroField] at hz
  rw [toNat_rndField, toNat_rndField] at hr
  rw [toNat_opcField, toNat_opcField] at ho
  exact BitVec.eq_of_toNat_eq (by omega)

theorem toNat_encode (i : Instr) : (encode i).toNat = 256 * i.rnd.toNat + i.opcode.toNat := by
  simp only [encode, toNat_append_eq, BitVec.toNat_ofNat]
  omega

theorem zeroField_encode (i : Instr) : zeroField (encode i) = 0 := by
  have := i.rnd.isLt
  have := i.opcode.isLt
  refine BitVec.eq_of_toNat_eq ?_
  rw [toNat_zeroField, toNat_encode]
  exact Nat.div_eq_of_lt (by omega)

theorem rndField_encode (i : Instr) : rndField (encode i) = i.rnd := by
  have := i.rnd.isLt
  have := i.opcode.isLt
  refine BitVec.eq_of_toNat_eq ?_
  rw [toNat_rndField, toNat_encode]
  omega

theorem opcField_encode (i : Instr) : opcField (encode i) = i.opcode := by
  have := i.opcode.isLt
  refine BitVec.eq_of_toNat_eq ?_
  rw [toNat_opcField, toNat_encode]
  omega

/-! ## Opcodes and commands -/

/-- ADDRK is the only command with an immediate (R92). -/
theorem opcode_eq_addrk_or_rnd_eq_zero (i : Instr) : i.opcode = 0x34 ∨ i.rnd = 0 := by
  cases i with
  | addrk r => exact .inl rfl
  | _ => exact .inr rfl

/-- The opcode table read backward. -/
theorem instrOfOpcode_opcode {i : Instr} (hi : i.wellFormed = true) :
    instrOfOpcode i.opcode i.rnd.toNat = some i := by
  cases i with
  | addrk r =>
    have hr : r ≤ 15 := of_decide_eq_true hi
    have hmod : (BitVec.ofNat 4 r).toNat = r := Nat.mod_eq_of_lt (Nat.lt_succ_of_le hr)
    exact congrArg (some ∘ Instr.addrk) hmod
  | _ => rfl

/-- The opcode table read forward: the command of an opcode carries that opcode and the immediate,
where the immediate is 0 for every command but ADDRK. -/
theorem fields_of_instrOfOpcode {opc : BitVec 8} {r : BitVec 4} {i : Instr}
    (h : instrOfOpcode opc r.toNat = some i) (hr : opc = 0x34 ∨ r = 0) :
    i.wellFormed = true ∧ i.rnd = r ∧ i.opcode = opc := by
  rcases hr with rfl | rfl
  · cases h
    exact ⟨decide_eq_true (Nat.le_of_lt_succ r.isLt), BitVec.ofNat_toNat .., rfl⟩
  · unfold instrOfOpcode at h
    split at h <;> cases h <;> exact ⟨rfl, rfl, rfl⟩

/-! ## The decoder -/

/-- The three tests of R95, all passed. -/
theorem decode_eq_ok_iff_fields {w : CmdWord} {i : Instr} :
    decode w = .ok i ↔ zeroField w = 0 ∧ instrOfOpcode (opcField w) (rndField w).toNat = some i ∧
      (opcField w = 0x34 ∨ rndField w = 0) := by
  unfold decode
  split
  next hz => exact iff_of_false nofun fun h => hz h.1
  next hz =>
    rw [iff_true_intro (not_not.1 hz), true_and]
    split
    next hopc => exact iff_of_false nofun fun h => by rw [hopc] at h; exact nomatch h.1
    next j hopc =>
      rw [hopc, Option.some_inj]
      split
      next hrnd => exact iff_of_false nofun fun h => h.2.elim hrnd.1 hrnd.2
      next hrnd =>
        have hlegal : opcField w = 0x34 ∨ rndField w = 0 := by
          rwa [not_and_or, not_not, not_not] at hrnd
        exact ⟨fun h => ⟨Except.ok.inj h, hlegal⟩, fun h => congrArg _ h.1⟩

/-- Decoding and encoding are inverse, between the legal words and the well-formed commands. -/
theorem decode_eq_ok_iff {w : CmdWord} {i : Instr} :
    decode w = .ok i ↔ i.wellFormed = true ∧ encode i = w := by
  rw [decode_eq_ok_iff_fields]
  constructor
  · rintro ⟨hz, hopc, hr⟩
    obtain ⟨hwf, hrnd, hop⟩ := fields_of_instrOfOpcode hopc hr
    exact ⟨hwf, word_ext ((zeroField_encode i).trans hz.symm) ((rndField_encode i).trans hrnd)
      ((opcField_encode i).trans hop)⟩
  · rintro ⟨hwf, rfl⟩
    rw [rndField_encode, opcField_encode]
    exact ⟨zeroField_encode i, instrOfOpcode_opcode hwf, opcode_eq_addrk_or_rnd_eq_zero i⟩

theorem decode_encode {i : Instr} (hi : i.wellFormed = true) : decode (encode i) = .ok i :=
  decode_eq_ok_iff.2 ⟨hi, rfl⟩

/-- A command word is a table word of 16 bits. -/
theorem decodeTableWord_toNat (w : CmdWord) : decodeTableWord 16 w.toNat = (decode w).toOption := by
  rw [decodeTableWord, Nat.mod_eq_of_lt w.isLt, BitVec.ofNat_toNat, BitVec.setWidth_eq]

/-- Settles O1: by the equivalence, in the direction from the command to its word. -/
theorem decodeInvertsEncode : Obligations.DecodeInvertsEncode := by
  intro i hi
  rw [decodeTableWord_toNat, decode_encode hi]
  exact ⟨rfl, rfl⟩

/-! ## The legal words -/

/-- The commands other than ADDRK, in the order of R93. -/
def plainCommands : List Instr :=
  [.nop, .zeroize, .gfmul, .subbF, .subbI, .subsF, .subsI, .shrF, .shrI, .mixcF, .mixcI, .kexp,
   .encb, .decb, .pad, .unpad, .cbcenc, .cbcdec, .sealContainer, .openContainer]

theorem mem_plainCommands_or_addrk (i : Instr) : i ∈ plainCommands ∨ ∃ r, i = .addrk r := by
  cases i with
  | addrk r => exact .inr ⟨r, rfl⟩
  | _ => exact .inl (by decide)

theorem wellFormed_of_mem_plainCommands :
    ∀ i ∈ plainCommands, i.wellFormed = true ∧ i.rnd = 0 := by decide

theorem plainOpcodes_eq : plainOpcodes = plainCommands.map fun i => i.opcode.toNat := by decide

theorem wellFormed_addrk_iff {r : Nat} : (Instr.addrk r).wellFormed = true ↔ r ∈ List.range 16 := by
  rw [List.mem_range, Nat.lt_succ_iff]
  exact decide_eq_true_iff

/-- The legal words are the words of the well-formed commands. -/
theorem legalWords_eq :
    legalWords = (plainCommands ++ (List.range 16).map Instr.addrk).map encode := by decide

theorem mem_commands_iff {i : Instr} :
    i ∈ plainCommands ++ (List.range 16).map Instr.addrk ↔ i.wellFormed = true := by
  rw [List.mem_append, List.mem_map]
  constructor
  · rintro (h | ⟨r, hr, rfl⟩)
    · exact (wellFormed_of_mem_plainCommands i h).1
    · exact wellFormed_addrk_iff.2 hr
  · intro h
    rcases mem_plainCommands_or_addrk i with hi | ⟨r, rfl⟩
    · exact .inl hi
    · exact .inr ⟨r, wellFormed_addrk_iff.1 h, rfl⟩

theorem decodes_iff_mem_legalWords (w : CmdWord) : (∃ i, decode w = .ok i) ↔ w ∈ legalWords := by
  simp only [legalWords_eq, List.mem_map, mem_commands_iff, decode_eq_ok_iff]

/-! ## The three tests of R95 on the number of a word -/

theorem opcode_mem_plainOpcodes_or_addrk (i : Instr) :
    i.opcode.toNat ∈ plainOpcodes ∨ i.opcode.toNat = 0x34 := by
  rcases mem_plainCommands_or_addrk i with hi | ⟨r, rfl⟩
  · rw [plainOpcodes_eq]
    exact .inl (List.mem_map_of_mem hi)
  · exact .inr rfl

/-- What the number of a legal word says of the command it carries. -/
theorem digits_of_decode {w : CmdWord} {i : Instr} (h : decode w = .ok i) :
    w.toNat / 4096 = 0 ∧ w.toNat / 256 % 16 = i.rnd.toNat ∧ w.toNat % 256 = i.opcode.toNat := by
  obtain ⟨-, rfl⟩ := decode_eq_ok_iff.1 h
  rw [← toNat_zeroField, ← toNat_rndField, ← toNat_opcField, zeroField_encode, rndField_encode,
    opcField_encode]
  exact ⟨rfl, rfl, rfl⟩

/-- A word with the digits of a well-formed command decodes to it. -/
theorem decode_of_digits {w : CmdWord} {i : Instr} (hi : i.wellFormed = true)
    (hz : w.toNat / 4096 = 0) (hr : w.toNat / 256 % 16 = i.rnd.toNat)
    (ho : w.toNat % 256 = i.opcode.toNat) : decode w = .ok i := by
  refine decode_eq_ok_iff.2 ⟨hi, BitVec.eq_of_toNat_eq ?_⟩
  rw [toNat_encode]
  omega

theorem decode_of_addrk_digits {w : CmdWord} (hz : w.toNat / 4096 = 0)
    (ho : w.toNat % 256 = 0x34) : decode w = .ok (.addrk (w.toNat / 256 % 16)) := by
  refine decode_of_digits (wellFormed_addrk_iff.2 (List.mem_range.2 (Nat.mod_lt _ (by decide)))) hz
    ?_ ho
  exact (Nat.mod_mod _ 16).symm

theorem decode_of_plain_digits {w : CmdWord} (hz : w.toNat / 4096 = 0)
    (ho : w.toNat % 256 ∈ plainOpcodes) (hr : w.toNat / 256 % 16 = 0) :
    ∃ i, decode w = .ok i ∧ i.opcode.toNat = w.toNat % 256 := by
  rw [plainOpcodes_eq, List.mem_map] at ho
  obtain ⟨i, hi, hop⟩ := ho
  obtain ⟨hwf, hrnd⟩ := wellFormed_of_mem_plainCommands i hi
  exact ⟨i, decode_of_digits hwf hz (by rw [hr, hrnd]; rfl) hop.symm, hop⟩

/-- Settles O2: each refusal contradicts a digit of the word that would decode. -/
theorem decodeFollowsTheThreeTests : Obligations.DecodeFollowsTheThreeTests := by
  refine ⟨fun w => ⟨?_, ?_, ?_, decode_of_addrk_digits, decode_of_plain_digits⟩, rfl, by decide,
    decodes_iff_mem_legalWords⟩
  · exact fun hz i h => hz (digits_of_decode h).1
  · intro hplain haddrk i h
    obtain ⟨-, -, ho⟩ := digits_of_decode h
    rw [ho] at hplain haddrk
    exact (opcode_mem_plainOpcodes_or_addrk i).elim hplain haddrk
  · intro haddrk hrnd i h
    obtain ⟨-, hr, ho⟩ := digits_of_decode h
    rcases opcode_eq_addrk_or_rnd_eq_zero i with hop | hzero
    · exact haddrk (by rw [ho, hop]; rfl)
    · exact hrnd (by rw [hr, hzero]; rfl)

/-! ## Match and mask -/

/-- ADDRK's row of R93. -/
def addrkRow : CommandRow := ⟨0x0034#16, 0xF0FF#16, fun w => .addrk (w.toNat / 256 % 16)⟩

/-- The row of a command without an immediate: its word, under a full mask. -/
def rowOf (i : Instr) : CommandRow := plainRow (encode i) i

theorem mem_commandTable {row : CommandRow} (h : row ∈ commandTable) :
    row = addrkRow ∨ ∃ i ∈ plainCommands, row = rowOf i := by
  have htable : commandTable =
      (plainCommands.take 11).map rowOf ++ addrkRow :: (plainCommands.drop 11).map rowOf := rfl
  rw [htable, List.mem_append, List.mem_cons, List.mem_map, List.mem_map] at h
  rcases h with ⟨i, hi, rfl⟩ | rfl | ⟨i, hi, rfl⟩
  · exact .inr ⟨i, List.mem_of_mem_take hi, rfl⟩
  · exact .inl rfl
  · exact .inr ⟨i, List.mem_of_mem_drop hi, rfl⟩

theorem plainRow_agrees {i : Instr} (hi : i.wellFormed = true) (w : CmdWord) :
    w &&& (rowOf i).mask = (rowOf i).word ↔ decode w = .ok ((rowOf i).command w) := by
  have hmask : w &&& (rowOf i).mask = w := BitVec.and_allOnes
  rw [hmask, decode_eq_ok_iff]
  exact ⟨fun h => ⟨hi, h.symm⟩, fun h => h.2.symm⟩

/-- The mask of ADDRK keeps ZERO and OPC and clears RND. -/
theorem and_addrkMask_eq_iff (w : CmdWord) :
    w &&& 0xF0FF#16 = 0x0034#16 ↔ zeroField w = 0 ∧ opcField w = 0x34 := by
  have hz : zeroField (w &&& 0xF0FF#16) = zeroField w :=
    BitVec.extractLsb'_and.trans BitVec.and_allOnes
  have hr : rndField (w &&& 0xF0FF#16) = 0 := BitVec.extractLsb'_and.trans BitVec.and_zero
  have ho : opcField (w &&& 0xF0FF#16) = opcField w :=
    BitVec.extractLsb'_and.trans BitVec.and_allOnes
  constructor
  · intro h
    rw [← hz, ← ho, h]
    exact ⟨rfl, rfl⟩
  · exact fun h => word_ext (hz.trans h.1) hr (ho.trans h.2)

theorem addrkRow_agrees (w : CmdWord) :
    w &&& addrkRow.mask = addrkRow.word ↔ decode w = .ok (addrkRow.command w) := by
  refine (and_addrkMask_eq_iff w).trans ⟨fun ⟨hz, ho⟩ => ?_, fun h => ?_⟩
  · refine decode_of_addrk_digits ?_ ?_
    · rw [← toNat_zeroField, hz]
      rfl
    · rw [← toNat_opcField, ho]
      rfl
  · obtain ⟨-, hw⟩ := decode_eq_ok_iff.1 h
    rw [← hw, zeroField_encode, opcField_encode]
    exact ⟨rfl, rfl⟩

/-- Settles O3: by the two kinds of row. -/
theorem decodeAgreesWithMatchAndMask : Obligations.DecodeAgreesWithMatchAndMask := by
  intro row hrow w
  rcases mem_commandTable hrow with rfl | ⟨i, hi, rfl⟩
  · exact addrkRow_agrees w
  · exact plainRow_agrees (wellFormed_of_mem_plainCommands i hi).1 w

/-- Settles O4: the words, the refusals and the pairs are fixed values, which the decoder and the
encoder compute. -/
theorem sampleWordsDecode : Obligations.SampleWordsDecode := by
  unfold Obligations.SampleWordsDecode
  decide

end Sys2Proof.Proofs
end

section
/-! The pseudo-commands (`30_encoding.md` R98, R99). A file is loaded by one write per byte, so a
load is the fold of a store over the bytes: of HostWrite on the state, and of the file's own store
on the file. Placing a file in the state carries the second fold to the first. -/

namespace Sys2Proof.Proofs

open Sys2Proof.Machine Sys2Proof.Claims

/-! ## A store for each byte, from an index upward -/

/-- The bytes stored one after the other, from index `a` upward. -/
def storeAll {α : Type} (store : Nat → Byte → α → α) : Nat → List Byte → α → α
  | _, [], x => x
  | a, b :: bs, x => storeAll store (a + 1) bs (store a b x)

/-- Where one store of `β` is a store of the file `α` that `f` places in it, so is a run of them. -/
theorem storeAll_comm {α β : Type} {outer : Nat → Byte → β → β} {inner : Nat → Byte → α → α}
    {f : α → β} {base size : Nat}
    (h : ∀ i, i < size → ∀ b x, outer (base + i) b (f x) = f (inner i b x))
    {a : Nat} {bs : List Byte} (hsize : a + bs.length ≤ size) (x : α) :
    storeAll outer (base + a) bs (f x) = f (storeAll inner a bs x) := by
  induction bs generalizing a x with
  | nil => rfl
  | cons b bs ih =>
    rw [List.length_cons] at hsize
    rw [storeAll, storeAll, h a (by omega), Nat.add_assoc, ih (by omega)]

theorem storeAll_memory (a : Nat) (bs : List Byte) (m : Memory) :
    storeAll (fun i b m => Memory.write m i b) a bs m = m.writeBytes a bs := by
  induction bs generalizing a m with
  | nil => rfl
  | cons b bs ih => exact ih ..

/-- A byte of a register file, replaced. -/
def setByte {w : Nat} (i : Nat) (b : Byte) (x : Vector Byte w) : Vector Byte w :=
  x.setIfInBounds i b

theorem getElem_storeAll_setByte {w : Nat} (a : Nat) (bs : List Byte) (x : Vector Byte w) {i : Nat}
    (hi : i < w) :
    (storeAll setByte a bs x)[i] = if i < a then x[i] else bs.getD (i - a) x[i] := by
  induction bs generalizing a x with
  | nil => simp [storeAll]
  | cons b bs ih =>
    rw [storeAll, ih, setByte, Vector.getElem_setIfInBounds]
    rcases Nat.lt_trichotomy i a with h | rfl | h
    · rw [if_pos (by omega), if_neg (by omega), if_pos h]
    · simp
    · have hsub : i - a = i - (a + 1) + 1 := by omega
      rw [if_neg (by omega), if_neg (by omega), if_neg (by omega), hsub, List.getD_cons_succ]

theorem getElem_storeAll_zero {w : Nat} (bs : List Byte) (x : Vector Byte w) (i : Fin w) :
    (storeAll setByte 0 bs x)[i] = bs.getD i.val x[i] :=
  getElem_storeAll_setByte 0 bs x i.isLt

theorem storeAll_toList {w : Nat} (y x : Vector Byte w) : storeAll setByte 0 y.toList x = y := by
  ext i hi
  rw [getElem_storeAll_setByte, if_neg (Nat.not_lt_zero i), Nat.sub_zero,
    List.getD_eq_getElem _ _ (by rwa [Vector.length_toList]), Vector.getElem_toList]

/-! ## The queue of a load -/

/-- The access `WR n, b`, by its effect (R62). -/
def writeByte (n : Nat) (b : Byte) (s : State) : State :=
  hostWrite Config.params (BitVec.ofNat 32 n) (b.zeroExtend 32) s

theorem writeFile_cons (base : Nat) (b : Byte) (bs : List Byte) :
    writeFile base (b :: bs) =
      .write (BitVec.ofNat 32 base) (b.zeroExtend 32) :: writeFile (base + 1) bs := by
  simp only [writeFile, List.length_cons, List.range_succ_eq_map, List.map_cons, List.map_map,
    List.getD_cons_zero, Nat.add_zero]
  refine congrArg _ (List.map_congr_left fun i _ => ?_)
  simp only [Function.comp_apply, List.getD_cons_succ, Nat.succ_eq_add_one, Nat.add_assoc,
    Nat.add_comm 1]

/-- No register is part of the queue. -/
theorem hostWrite_withPending (P : Params) (n v : Word32) (s : State) (q : List HostEvent) :
    hostWrite P n v { s with pending := q } = { hostWrite P n v s with pending := q } := by
  unfold hostWrite
  cases regAt P n.toNat <;> rfl

theorem run_succ {s t : State} (h : step s = .next t) (k : Nat) :
    Host.Core.run Sys2Proof.core (k + 1) s = Host.Core.run Sys2Proof.core k t := by
  have h : Sys2Proof.core.step s = .next t := h
  simp only [Host.Core.run, h]

theorem toNat_registerNumber {n : Nat} (h : n < 2 ^ 32) : (BitVec.ofNat 32 n).toNat = n :=
  (BitVec.toNat_ofNat n 32).trans (Nat.mod_eq_of_lt h)

theorem run_write {n : Nat} (hpos : 0 < n) (hlt : n < 2 ^ 32) (v : Word32) (k : Nat) (s : State)
    (rest : List HostEvent) :
    Host.Core.run Sys2Proof.core (k + 1)
        { s with pending := .write (BitVec.ofNat 32 n) v :: rest } =
      Host.Core.run Sys2Proof.core k
        { hostWrite Config.params (BitVec.ofNat 32 n) v s with pending := rest } := by
  have hn : BitVec.ofNat 32 n ≠ 0 := fun h => by
    have h := congrArg BitVec.toNat h
    rw [toNat_registerNumber hlt] at h
    exact Nat.ne_of_gt hpos h
  rw [← hostWrite_withPending]
  refine run_succ (step_write ?_ hn) k
  rfl

theorem run_writeFile {base : Nat} {bs : List Byte} (hpos : 0 < base)
    (hlt : base + bs.length ≤ 2 ^ 32) (k : Nat) (s : State) (rest : List HostEvent) :
    Host.Core.run Sys2Proof.core (bs.length + k) { s with pending := writeFile base bs ++ rest } =
      Host.Core.run Sys2Proof.core k { storeAll writeByte base bs s with pending := rest } := by
  induction bs generalizing base s with
  | nil => rw [List.length_nil, Nat.zero_add]; rfl
  | cons b bs ih =>
    rw [List.length_cons] at hlt
    rw [writeFile_cons, List.cons_append, List.length_cons, Nat.add_right_comm,
      run_write hpos (by omega), ih (Nat.succ_pos base) (by omega)]
    rfl

theorem run_loadFile {base lenReg : Nat} {bs : List Byte} (hpos : 0 < base)
    (hlt : base + bs.length ≤ 2 ^ 32) (hlen : 0 < lenReg) (hlenLt : lenReg < 2 ^ 32) (s : State)
    (rest : List HostEvent) :
    Host.Core.run Sys2Proof.core (bs.length + 1)
        { s with pending := loadFile base lenReg bs ++ rest } =
      .next { hostWrite Config.params (BitVec.ofNat 32 lenReg) (BitVec.ofNat 32 bs.length)
        (storeAll writeByte base bs s) with pending := rest } := by
  rw [loadFile, List.append_assoc, run_writeFile hpos hlt]
  exact run_write hlen hlenLt ..

/-! ## The files -/

theorem writeByte_of_regAt {n : Nat} {r : Reg} (hr : regAt Config.params n = r) (hn : n < 2 ^ 32)
    (b : Byte) (s : State) : writeByte n b s = setReg r (b.zeroExtend 32) s :=
  hostWrite_of_regAt (toNat_registerNumber hn) hr _ s

theorem truncate_zeroExtend (b : Byte) : (b.zeroExtend 32).truncate 8 = b :=
  (BitVec.setWidth_setWidth_of_le b (by decide)).trans (BitVec.setWidth_eq b)

/-- A register file of the map: `place` puts its content into a state, and `reg` names its bytes. -/
theorem storeAll_registerFile {w base : Nat} {reg : Fin w → Reg} {place : Vector Byte w → State}
    (hreg : ∀ i, regAt Config.params (base + i.val) = reg i) (hbase : base + w ≤ 2 ^ 32)
    (hset : ∀ i v x, setReg (reg i) v (place x) = place (x.set i.val (v.truncate 8)))
    {bs : List Byte} (hbs : bs.length ≤ w) (x : Vector Byte w) :
    storeAll writeByte base bs (place x) = place (storeAll setByte 0 bs x) := by
  refine storeAll_comm (size := w) (a := 0) (fun i hi b x => ?_) (by omega) x
  rw [writeByte_of_regAt (hreg ⟨i, hi⟩) (by omega), hset, truncate_zeroExtend, setByte]
  exact congrArg place (Vector.ext fun j hj => by
    rw [Vector.getElem_set, Vector.getElem_setIfInBounds])

theorem storeAll_key {bs : List Byte} (hbs : bs.length ≤ 32) (s : State) :
    storeAll writeByte 0x40 bs s = { s with key := storeAll setByte 0 bs s.key } :=
  storeAll_registerFile (place := fun x => { s with key := x }) (regAt_key _) (by decide)
    (fun _ _ _ => rfl) hbs s.key

theorem storeAll_iv {bs : List Byte} (hbs : bs.length ≤ 16) (s : State) :
    storeAll writeByte 0x20 bs s = { s with iv := storeAll setByte 0 bs s.iv } :=
  storeAll_registerFile (place := fun x => { s with iv := x }) (regAt_iv _) (by decide)
    (fun _ _ _ => rfl) hbs s.iv

theorem storeAll_mkey {bs : List Byte} (hbs : bs.length ≤ 256) (s : State) :
    storeAll writeByte 0x200 bs s = { s with mkey := storeAll setByte 0 bs s.mkey } :=
  storeAll_registerFile (place := fun x => { s with mkey := x }) (regAt_mkey _) (by decide)
    (fun _ _ _ => rfl) hbs s.mkey

theorem storeAll_st {bs : List Byte} (hbs : bs.length ≤ 16) (s : State) :
    storeAll writeByte 0x10 bs s = { s with st := storeAll setByte 0 bs s.st } :=
  storeAll_registerFile (place := fun x => { s with st := x }) (regAt_st _) (by decide)
    (fun _ _ _ => rfl) hbs s.st

theorem storeAll_buf {bs : List Byte} (hbs : bs.length ≤ Config.params.bufCap) (s : State) :
    storeAll writeByte 0x10000 bs s = { s with buf := s.buf.writeBytes 0 bs } := by
  have hcap := Config.bufCap_le
  rw [← storeAll_memory]
  refine storeAll_comm (size := Config.params.bufCap) (a := 0) (bs := bs)
    (f := fun m => { s with buf := m }) (fun i hi b m => ?_) (by omega) s.buf
  rw [writeByte_of_regAt (regAt_buf _ i hi) (by omega), setReg, truncate_zeroExtend]

theorem read_writeBytes_zero {m : Memory} (hm : m.wf) (bs : List Byte) (a : Nat) :
    (m.writeBytes 0 bs).read a = bs.getD a (m.read a) := by
  rw [Memory.read_writeBytes hm, Nat.sub_zero, Nat.zero_add]
  by_cases h : a < bs.length
  · rw [if_pos ⟨Nat.zero_le a, h⟩, List.getD_eq_getElem _ _ h, List.getD_eq_getElem _ _ h]
  · rw [if_neg fun hin => h hin.2, List.getD_eq_default _ _ (Nat.le_of_not_lt h)]

/-! ## The length registers -/

theorem hostWrite_klen (n : Nat) (s : State) :
    hostWrite Config.params (BitVec.ofNat 32 0x5) (BitVec.ofNat 32 n) s =
      { s with klen := BitVec.ofNat 8 n } := by
  rw [hostWrite_of_regAt rfl (regAt_klen _), setReg, BitVec.truncate_eq_setWidth,
    BitVec.setWidth_ofNat_of_le (by decide)]

theorem hostWrite_ivlen (n : Nat) (s : State) :
    hostWrite Config.params (BitVec.ofNat 32 0x6) (BitVec.ofNat 32 n) s =
      { s with ivlen := BitVec.ofNat 8 n } := by
  rw [hostWrite_of_regAt rfl (regAt_ivlen _), setReg, BitVec.truncate_eq_setWidth,
    BitVec.setWidth_ofNat_of_le (by decide)]

theorem hostWrite_mklen (n : Nat) (s : State) :
    hostWrite Config.params (BitVec.ofNat 32 0x7) (BitVec.ofNat 32 n) s =
      { s with mklen := BitVec.ofNat 16 n } := by
  rw [hostWrite_of_regAt rfl (regAt_mklen _), setReg, BitVec.truncate_eq_setWidth,
    BitVec.setWidth_ofNat_of_le (by decide)]

/-! ## The pseudo-commands -/

theorem run_ldKey {bs : List Byte} (hbs : bs.length ≤ 32) (s : State) (rest : List HostEvent) :
    Host.Core.run Sys2Proof.core (bs.length + 1) { s with pending := ldKey bs ++ rest } =
      .next { s with
        pending := rest
        key := storeAll setByte 0 bs s.key
        klen := BitVec.ofNat 8 bs.length } := by
  rw [ldKey, run_loadFile (by decide) (by omega) (by decide) (by decide), storeAll_key hbs,
    hostWrite_klen]

theorem run_ldIv {bs : List Byte} (hbs : bs.length ≤ 16) (s : State) (rest : List HostEvent) :
    Host.Core.run Sys2Proof.core (bs.length + 1) { s with pending := ldIv bs ++ rest } =
      .next { s with
        pending := rest
        iv := storeAll setByte 0 bs s.iv
        ivlen := BitVec.ofNat 8 bs.length } := by
  rw [ldIv, run_loadFile (by decide) (by omega) (by decide) (by decide), storeAll_iv hbs,
    hostWrite_ivlen]

theorem run_ldMkey {bs : List Byte} (hbs : bs.length ≤ 256) (s : State) (rest : List HostEvent) :
    Host.Core.run Sys2Proof.core (bs.length + 1) { s with pending := ldMkey bs ++ rest } =
      .next { s with
        pending := rest
        mkey := storeAll setByte 0 bs s.mkey
        mklen := BitVec.ofNat 16 bs.length } := by
  rw [ldMkey, run_loadFile (by decide) (by omega) (by decide) (by decide), storeAll_mkey hbs,
    hostWrite_mklen]

theorem run_ldBuf {bs : List Byte} (hbs : bs.length ≤ Config.params.bufCap) (s : State)
    (rest : List HostEvent) :
    Host.Core.run Sys2Proof.core (bs.length + 1) { s with pending := ldBuf bs ++ rest } =
      .next { s with
        pending := rest, buf := s.buf.writeBytes 0 bs, len := BitVec.ofNat 32 bs.length } := by
  have hcap := Config.bufCap_le
  rw [ldBuf, run_loadFile (by decide) (by omega) (by decide) (by decide), storeAll_buf hbs,
    hostWrite_of_regAt rfl (regAt_len _), setReg]

theorem run_ldSt (x : Block) (s : State) (rest : List HostEvent) :
    Host.Core.run Sys2Proof.core 16 { s with pending := ldSt x ++ rest } =
      .next { s with pending := rest, st := x } := by
  have hlen : x.toList.length = 16 := x.length_toList
  have hrun := run_writeFile (base := 0x10) (bs := x.toList) (by decide) (by omega) 0 s rest
  rw [storeAll_st hlen.le, storeAll_toList, hlen] at hrun
  exact hrun

/-- Settles O10: each load is its run, and a file holds the bytes that were stored. -/
theorem pseudoCommandsLoadTheirFile : Obligations.PseudoCommandsLoadTheirFile := by
  intro s bs rest
  refine ⟨fun h => ?_, fun h => ?_, fun h => ?_, fun hwf h => ?_, fun x => run_ldSt x s rest⟩
  · exact ⟨_, run_ldKey h s rest, rfl, getElem_storeAll_zero bs s.key⟩
  · exact ⟨_, run_ldIv h s rest, rfl, getElem_storeAll_zero bs s.iv⟩
  · exact ⟨_, run_ldMkey h s rest, rfl, getElem_storeAll_zero bs s.mkey⟩
  · exact ⟨_, run_ldBuf h s rest, rfl, read_writeBytes_zero hwf bs⟩

end Sys2Proof.Proofs
end

section
/-! Bytes as polynomials over GF(2) (`40_gf_multiplier.md` R110). The ring of polynomials modulo
m(x) holds each byte as one residue; there exclusive-or is the sum, the doubling step is the product
with the residue of x, and `Multiply` is the product. -/

namespace Sys2Proof.Proofs

open Sys2Proof.Machine Sys2Proof.Claims Polynomial

/-! ## The polynomial of a byte -/

theorem toPoly_one : toPoly 1 = 1 := by
  rw [toPoly, Fin.sum_univ_succ]
  simp [BitVec.getLsbD_one]

theorem toPoly_xor (a b : Byte) : toPoly (a ^^^ b) = toPoly a + toPoly b := by
  simp only [toPoly, ← Finset.sum_add_distrib]
  refine Finset.sum_congr rfl fun i _ => ?_
  rw [BitVec.getLsbD_xor]
  cases a.getLsbD i <;> cases b.getLsbD i <;> simp [CharTwo.add_self_eq_zero]

theorem coeff_toPoly (a : Byte) (i : Fin 8) :
    (toPoly a).coeff i = if a.getLsbD i then 1 else 0 := by
  simp only [toPoly, finsetSum_coeff, apply_ite (coeff · i.val), coeff_X_pow, coeff_zero,
    Fin.val_inj]
  rw [Finset.sum_eq_single i (fun j _ hj => by simp [hj.symm]) (by simp), if_pos rfl]

theorem toPoly_injective : Function.Injective toPoly := fun a b h => by
  refine BitVec.eq_of_getLsbD_eq fun i hi => ?_
  have hbit (c : Byte) : (toPoly c).coeff i = 1 ↔ c.getLsbD i = true := by
    simp [coeff_toPoly c ⟨i, hi⟩]
  rw [Bool.eq_iff_iff, ← hbit a, ← hbit b, h]

theorem degree_toPoly_lt (a : Byte) : (toPoly a).degree < 8 := by
  refine (degree_sum_le _ _).trans_lt ((Finset.sup_lt_iff (by decide)).2 fun i _ => ?_)
  split
  · rw [degree_X_pow]
    exact_mod_cast i.isLt
  · rw [degree_zero]
    decide

theorem degree_modulus : modulus.degree = 8 := by
  rw [modulus]
  compute_degree!

theorem X_mul_toPoly_eq_shiftLeft (a : Byte) :
    X * toPoly a = toPoly (a <<< 1) + if a.getLsbD 7 then X ^ 8 else 0 := by
  rw [toPoly, toPoly, Fin.sum_univ_castSucc (n := 7), Fin.sum_univ_succ (n := 7), mul_add,
    Finset.mul_sum]
  refine congrArg₂ (· + ·) ?_ ?_
  · have hlt (i : Fin 7) : i.val + 1 < 8 := by omega
    simp [hlt, pow_succ', -BitVec.getLsbD_eq_getElem]
  · simp [pow_succ']

theorem X_pow_eight : (X ^ 8 : Polynomial (ZMod 2)) = modulus + toPoly 0x1B#8 := by
  have h : modulus = X ^ 8 + toPoly 0x1B#8 := by
    rw [modulus, toPoly, Fin.sum_univ_eight]
    simp [add_comm, add_assoc]
  rw [h, add_assoc, CharTwo.add_self_eq_zero, add_zero]

theorem X_mul_toPoly_eq_xtime (a : Byte) :
    X * toPoly a = toPoly (xtime a) + if a.getLsbD 7 then modulus else 0 := by
  rw [X_mul_toPoly_eq_shiftLeft, X_pow_eight, xtime]
  split
  · rw [toPoly_xor]
    ring
  · rfl

/-! ## The residue of a byte -/

/-- The residue of a byte's polynomial modulo m(x), where the product of R110 is the product. -/
noncomputable def residue (a : Byte) : AdjoinRoot modulus := AdjoinRoot.mk modulus (toPoly a)

/-- Two bytes' polynomials differ in degree below that of m(x), so no residue is shared. -/
theorem residue_injective : Function.Injective residue := fun a b h => by
  have hdvd : modulus ∣ toPoly a - toPoly b := AdjoinRoot.mk_eq_mk.1 h
  have hlt : (toPoly a - toPoly b).degree < modulus.degree := by
    rw [degree_modulus]
    exact (degree_sub_le _ _).trans_lt (max_lt (degree_toPoly_lt a) (degree_toPoly_lt b))
  exact toPoly_injective (sub_eq_zero.1 (eq_zero_of_dvd_of_degree_lt hdvd hlt))

theorem residue_one : residue 1 = 1 := by rw [residue, toPoly_one, map_one]

theorem residue_xor (a b : Byte) : residue (a ^^^ b) = residue a + residue b := by
  rw [residue, toPoly_xor, map_add, residue, residue]

theorem residue_zero : residue 0 = 0 := by
  simpa using residue_xor 0 0

theorem residue_xtime (a : Byte) : residue (xtime a) = AdjoinRoot.root modulus * residue a := by
  rw [residue, residue, ← AdjoinRoot.mk_X, ← map_mul, X_mul_toPoly_eq_xtime, map_add]
  split <;> simp

theorem residue_eq_sum (a : Byte) :
    residue a = ∑ i : Fin 8, if a.getLsbD i then AdjoinRoot.root modulus ^ i.val else 0 := by
  simp [residue, toPoly, apply_ite (AdjoinRoot.mk modulus)]

theorem residue_selectedSum (n : Nat) (a b : Byte) :
    residue (selectedSum n a b) = residue a *
      ∑ i : Fin n, if b.getLsbD i then AdjoinRoot.root modulus ^ i.val else 0 := by
  induction n generalizing a b with
  | zero => rw [selectedSum, residue_zero, Fin.sum_univ_zero, mul_zero]
  | succ n ih =>
    rw [selectedSum, residue_xor, ih, residue_xtime, Fin.sum_univ_succ, mul_add]
    refine congrArg₂ (· + ·) ?_ ?_
    · rw [apply_ite residue, residue_zero]
      simp
    · rw [mul_comm (AdjoinRoot.root modulus), mul_assoc, Finset.mul_sum]
      simp [pow_succ', Nat.add_comm]

theorem residue_multiply (a b : Byte) : residue (multiply a b) = residue a * residue b := by
  rw [multiply_eq_selectedSum, residue_selectedSum, ← residue_eq_sum]

/-- Settles O17: `Multiply` is the product of residues, and equal residues differ by a multiple of
m(x). -/
theorem multiplyIsThePolynomialProduct : Obligations.MultiplyIsThePolynomialProduct := by
  refine ⟨fun a b => ?_, toPoly_xor, toPoly_injective⟩
  have h : AdjoinRoot.mk modulus (toPoly a * toPoly b) = residue (multiply a b) := by
    rw [residue_multiply, map_mul, residue, residue]
  obtain ⟨q, hq⟩ := AdjoinRoot.mk_eq_mk.1 h
  exact ⟨q, sub_eq_iff_eq_add.1 hq⟩

end Sys2Proof.Proofs
end

section
/-! The field laws of `Multiply` (`40_gf_multiplier.md` R112, R113). The laws of a commutative ring
are those of the residues. Inverses come from 0x03: it has order 255, so its powers are all the
nonzero bytes. -/

namespace Sys2Proof.Proofs

open Sys2Proof.Machine Sys2Proof.Claims

/-! ## The laws of a commutative ring -/

theorem multiply_comm (a b : Byte) : multiply a b = multiply b a :=
  residue_injective (by rw [residue_multiply, residue_multiply, mul_comm])

theorem multiply_assoc (a b c : Byte) : multiply (multiply a b) c = multiply a (multiply b c) :=
  residue_injective (by simp only [residue_multiply, mul_assoc])

theorem multiply_one (a : Byte) : multiply a 1 = a :=
  residue_injective (by rw [residue_multiply, residue_one, mul_one])

theorem one_multiply (a : Byte) : multiply 1 a = a := by rw [multiply_comm, multiply_one]

/-! ## Inverses -/

/-- The powers of 0x03, the byte of x + 1: one doubling and one sum for each. -/
def powThree : Nat → Byte
  | 0 => 1
  | n + 1 => xtime (powThree n) ^^^ powThree n

theorem residue_powThree (n : Nat) : residue (powThree n) = (AdjoinRoot.root modulus + 1) ^ n := by
  induction n with
  | zero => rw [powThree, residue_one, pow_zero]
  | succ n ih => rw [powThree, residue_xor, residue_xtime, ih, pow_succ', add_mul, one_mul]

theorem pow_eq_one_iff_powThree (n : Nat) :
    (AdjoinRoot.root modulus + 1) ^ n = 1 ↔ powThree n = 1 := by
  rw [← residue_powThree, ← residue_one, residue_injective.eq_iff]

theorem powThree_255 : powThree 255 = 1 := by decide +kernel

/-- The order divides 255 = 3 · 5 · 17, and no quotient of 255 by one of these primes is enough. -/
theorem orderOf_root_add_one : orderOf (AdjoinRoot.root modulus + 1) = 255 := by
  have hproper : ∀ p ∈ Nat.primeFactors 255, powThree (255 / p) ≠ 1 := by decide +kernel
  refine orderOf_eq_of_pow_and_pow_div_prime (by decide)
    ((pow_eq_one_iff_powThree _).2 powThree_255) fun p hp hdvd hone => ?_
  have hmem : p ∈ Nat.primeFactors 255 := Nat.mem_primeFactors.2 ⟨hp, hdvd, by decide⟩
  exact hproper p hmem ((pow_eq_one_iff_powThree _).1 hone)

theorem powThree_injOn : Set.InjOn powThree (Finset.range 255) := fun i hi j hj h => by
  rw [Finset.coe_range, ← orderOf_root_add_one] at hi hj
  refine pow_injOn_Iio_orderOf hi hj ?_
  beta_reduce
  rw [← residue_powThree, h, residue_powThree]

theorem multiply_powThree_sub {k : Nat} (hk : k ≤ 255) :
    multiply (powThree k) (powThree (255 - k)) = 1 := by
  refine residue_injective ?_
  rw [residue_multiply, residue_powThree, residue_powThree, ← pow_add, Nat.add_sub_cancel' hk,
    ← residue_powThree, powThree_255]

theorem powThree_ne_zero {k : Nat} (hk : k ≤ 255) : powThree k ≠ 0 := fun hzero => by
  have h := multiply_powThree_sub hk
  rw [hzero, zero_multiply] at h
  exact absurd h (by decide)

/-- The 255 different powers fill the 255 nonzero bytes. -/
theorem exists_powThree {a : Byte} (ha : a ≠ 0) : ∃ k < 255, powThree k = a := by
  have hmaps : Set.MapsTo powThree (Finset.range 255) (Finset.univ.erase (0 : Byte)) := fun k hk =>
    Finset.mem_erase.2 ⟨powThree_ne_zero (Finset.mem_range.1 hk).le, Finset.mem_univ _⟩
  have hcard : (Finset.univ.erase (0 : Byte)).card ≤ (Finset.range 255).card := by
    rw [Finset.card_erase_of_mem (Finset.mem_univ _), Finset.card_univ,
      ← FinEnum.card_eq_fintypeCard, FinEnum.card_bitVec, Finset.card_range]
    decide
  have hsurj := Finset.surjOn_of_injOn_of_card_le powThree hmaps powThree_injOn hcard
  obtain ⟨k, hk, rfl⟩ := hsurj (Finset.mem_erase.2 ⟨ha, Finset.mem_univ a⟩)
  exact ⟨k, Finset.mem_range.1 hk, rfl⟩

theorem exists_inverse {a : Byte} (ha : a ≠ 0) : ∃ b, multiply a b = 1 := by
  obtain ⟨k, hk, rfl⟩ := exists_powThree ha
  exact ⟨_, multiply_powThree_sub hk.le⟩

theorem multiply_left_cancel {a b c : Byte} (ha : a ≠ 0) (h : multiply a b = multiply a c) :
    b = c := by
  obtain ⟨d, hd⟩ := exists_inverse ha
  rw [multiply_comm] at hd
  rw [← one_multiply b, ← hd, multiply_assoc, h, ← multiply_assoc, hd, one_multiply]

/-! ## The doubling step and the small multipliers -/

theorem xtime_eq_double (a : Byte) : xtime a = double a := by
  have h : a.getLsbD 7 = decide (128 ≤ a.toNat) := BitVec.msb_eq_decide a
  rw [xtime, double, h]
  by_cases hlt : a.toNat < 128
  · simp [hlt]
  · simp [hlt, Nat.le_of_not_lt hlt]

theorem xtime_multiply (a b : Byte) : multiply (xtime a) b = xtime (multiply a b) :=
  residue_injective (by simp only [residue_multiply, residue_xtime, mul_assoc])

theorem two_eq_xtime_one : (0x02 : Byte) = xtime 1 := by decide

theorem multiply_two (a : Byte) : multiply a 0x02 = xtime a := by
  rw [multiply_comm, two_eq_xtime_one, xtime_multiply, one_multiply]

/-- The constants of MixColumns as sums of doublings of 0x01. -/
theorem mixConstants_eq :
    (0x03 : Byte) = xtime 1 ^^^ 1 ∧
    (0x09 : Byte) = xtime (xtime (xtime 1)) ^^^ 1 ∧
    (0x0b : Byte) = xtime (xtime (xtime 1)) ^^^ xtime 1 ^^^ 1 ∧
    (0x0d : Byte) = xtime (xtime (xtime 1)) ^^^ xtime (xtime 1) ^^^ 1 ∧
    (0x0e : Byte) = xtime (xtime (xtime 1)) ^^^ xtime (xtime 1) ^^^ xtime 1 := by decide

/-- Settles O18: the doubling step by its law with 0x02 and by its top bit; the 14 printed constants
are evaluated. -/
theorem xtimeIsMultiplyByTwo : Obligations.XtimeIsMultiplyByTwo := by
  have hprinted : ∀ j ≤ 14, 1 ≤ j → rcon j = rconTable j := by decide
  refine ⟨fun a => ⟨(multiply_two a).symm, xtime_eq_double a⟩, rfl, fun j hj => ?_,
    fun j h1 h14 => hprinted j h14 h1⟩
  obtain ⟨k, rfl⟩ := Nat.exists_eq_add_of_le' hj
  rfl

/-- Settles O19: the ring laws are those of the residues, and an inverse cancels its byte. -/
theorem multiplyIsAField : Obligations.MultiplyIsAField := by
  refine ⟨multiply_comm, multiply_one, multiply_zero, multiply_xor_right, multiply_assoc,
    fun a b ha hb h => ?_, fun a ha => ?_, fun v => ?_⟩
  · exact hb (multiply_left_cancel ha (h.trans (multiply_zero a).symm))
  · obtain ⟨b, hb⟩ := exists_inverse ha
    exact ⟨b, hb, fun c hc => multiply_left_cancel ha (hc.trans hb.symm)⟩
  · obtain ⟨h3, h9, hb, hd, he⟩ := mixConstants_eq
    simp only [two_eq_xtime_one, h3, h9, hb, hd, he, multiply_xor_left, xtime_multiply,
      one_multiply, ← xtime_eq_double, and_self]

end Sys2Proof.Proofs
end

section
/-! GFMUL (`40_gf_multiplier.md` R114): the product goes to RES, and the multiplier's working copies
are 0 before and after. -/

namespace Sys2Proof.Proofs

open Sys2Proof.Machine

theorem clearHidden_of_idle {s : State} (h : s.hidden = Hidden.idle) : clearHidden s = s := by
  rw [clearHidden, ← h]

theorem exec_gfmul (s : State) : exec .gfmul s =
    .next (clearHidden (succeed { s with res := multiply s.opa s.opb })) := rfl

theorem res_of_exec_gfmul {s t : State} (h : exec .gfmul s = .next t) :
    t.res = multiply s.opa s.opb := by
  rw [exec_gfmul] at h
  cases h
  rfl

/-- Settles O20: from an idle state clearing the hidden registers changes nothing, and each corner
case is a value of `Multiply`. -/
theorem gfmulWritesTheProduct : Obligations.GfmulWritesTheProduct := by
  refine ⟨rfl, fun s hs => (exec_gfmul s).trans (congrArg _ (clearHidden_of_idle hs)),
    fun s t h => ?_⟩
  rw [res_of_exec_gfmul h]
  refine ⟨?_, fun hb => ?_, fun ha hb => ?_, fun ha hb => ?_, fun ha hb => ?_, fun ha hb => ?_⟩
  · rintro (ha | hb)
    · rw [ha, zero_multiply]
    · rw [hb, multiply_zero]
  · rw [hb, multiply_one]
  all_goals
    rw [ha, hb]
    decide

end Sys2Proof.Proofs
end

section
/-! The substitution tables (`41_substitution.md` R120, R123). Three facts are read off the 256
entries: InvSbox undoes Sbox, Sbox fixes no byte, and InvSbox takes the affine map of a byte to its
inverse in the field. The rest follows from them. -/

namespace Sys2Proof.Proofs

open Sys2Proof.Machine Sys2Proof.Claims

theorem invSbox_sbox (x : Byte) : invSbox (sbox x) = x := by
  revert x
  decide +kernel

theorem sbox_bijective : Function.Bijective sbox :=
  Finite.injective_iff_bijective.1 (Function.LeftInverse.injective invSbox_sbox)

theorem sbox_invSbox (x : Byte) : sbox (invSbox x) = x :=
  Function.LeftInverse.rightInverse_of_surjective invSbox_sbox sbox_bijective.surjective x

theorem invSbox_bijective : Function.Bijective invSbox :=
  Function.bijective_iff_has_inverse.2 ⟨sbox, sbox_invSbox, invSbox_sbox⟩

/-- R123 read backwards, which is one check for each byte instead of one for each pair. -/
theorem multiply_invSbox_affine {b : Byte} (hb : b ≠ 0) : multiply (invSbox (affine b)) b = 1 := by
  revert b
  decide +kernel

theorem sbox_eq_affine_of_multiply_eq_one {x y : Byte} (h : multiply x y = 1) :
    sbox x = affine y := by
  have hy : y ≠ 0 := by
    rintro rfl
    rw [multiply_zero] at h
    exact absurd h (by decide)
  have hinverse : multiply y x = multiply y (invSbox (affine y)) := by
    rw [multiply_comm y x, h, multiply_comm y, multiply_invSbox_affine hy]
  rw [multiply_left_cancel hy hinverse, sbox_invSbox]

theorem sbox_ne_self (x : Byte) : sbox x ≠ x := by
  revert x
  decide +kernel

/-- A fixed point of InvSbox would be one of Sbox. -/
theorem invSbox_ne_self (x : Byte) : invSbox x ≠ x := fun h =>
  sbox_ne_self x (by rw [← congrArg sbox h, sbox_invSbox])

/-- Settles O21: the entries at fixed places are evaluated. -/
theorem sboxIsTheAffineInverse : Obligations.SboxIsTheAffineInverse := by
  refine ⟨fun x => ⟨invSbox_sbox x, sbox_invSbox x⟩, sbox_bijective, invSbox_bijective, ?_,
    fun x y => sbox_eq_affine_of_multiply_eq_one, fun x => ⟨sbox_ne_self x, invSbox_ne_self x⟩, ?_⟩
  all_goals decide

end Sys2Proof.Proofs
end

section
/-! The substitution commands (`41_substitution.md` R126 to R129): one byte for SUBB, the whole
State for SUBS, and each direction undoes the other. -/

namespace Sys2Proof.Proofs

open Sys2Proof.Machine Sys2Proof.Claims

/-! ## What the commands do -/

theorem exec_subbF (s : State) : exec .subbF s = .next (substituteOpa .forward s) := rfl

theorem exec_subbI (s : State) : exec .subbI s = .next (substituteOpa .inverse s) := rfl

theorem exec_subsF (s : State) : exec .subsF s = .next (substituteSt .forward s) := rfl

theorem exec_subsI (s : State) : exec .subsI s = .next (substituteSt .inverse s) := rfl

@[simp] theorem substituteByte_forward (x : Byte) : substituteByte .forward x = sbox x := rfl

@[simp] theorem substituteByte_inverse (x : Byte) : substituteByte .inverse x = invSbox x := rfl

@[simp] theorem substituteOpa_res (d : Direction) (s : State) :
    (substituteOpa d s).res = substituteByte d s.opa := rfl

theorem substituteOpa_frame (d : Direction) (s : State) :
    substituteOpa d s = { s with res := (substituteOpa d s).res, err := 0, sub := 0 } := rfl

@[simp] theorem substituteSt_st (d : Direction) (s : State) :
    (substituteSt d s).st = substituteState d s.st := rfl

theorem substituteSt_frame (d : Direction) (s : State) :
    substituteSt d s = { s with st := (substituteSt d s).st, err := 0, sub := 0 } := rfl

/-! ## The State, byte by byte -/

theorem byteOf_eq_getElem (x : Block) {i : Nat} (h : i < 16) : byteOf x i = x[i] := by
  simp [byteOf, h]

theorem byteOf_substituteState (d : Direction) (x : Block) {i : Nat} (h : i < 16) :
    byteOf (substituteState d x) i = substituteByte d (byteOf x i) := by
  rw [byteOf_eq_getElem _ h, byteOf_eq_getElem _ h, getElem_substituteState]

theorem substituteState_replicate (d : Direction) (b : Byte) :
    substituteState d (Vector.replicate 16 b) = Vector.replicate 16 (substituteByte d b) := by
  ext i hi
  simp

@[simp] theorem substituteState_inverse_forward (x : Block) :
    substituteState .inverse (substituteState .forward x) = x := by
  ext i hi
  simp [invSbox_sbox]

@[simp] theorem substituteState_forward_inverse (x : Block) :
    substituteState .forward (substituteState .inverse x) = x := by
  ext i hi
  simp [sbox_invSbox]

/-! ## The statements -/

/-- Settles O22: the examples are entries of the tables. -/
theorem subbWritesTheTableEntry : Obligations.SubbWritesTheTableEntry := by
  refine ⟨rfl, rfl,
    fun s => ⟨_, exec_subbF s, rfl, invSbox_sbox s.opa, substituteOpa_frame .forward s,
      fun h => ?_, fun h => ?_⟩,
    fun s => ⟨_, exec_subbI s, rfl, sbox_invSbox s.opa, substituteOpa_frame .inverse s,
      fun h => ?_, fun h => ?_⟩⟩
  all_goals
    rw [substituteOpa_res, h]
    decide

/-- Settles O23: byte by byte, and the inverse of each direction is the other. -/
theorem subsMapsEveryByte : Obligations.SubsMapsEveryByte := by
  refine ⟨rfl, rfl,
    fun s => ⟨_, exec_subsF s, substituteSt_frame .forward s,
      fun _ => byteOf_substituteState .forward s.st, fun hzero => ?_,
      _, exec_subsI _, substituteState_inverse_forward s.st⟩,
    fun s => ⟨_, exec_subsI s, substituteSt_frame .inverse s,
      fun _ => byteOf_substituteState .inverse s.st,
      _, exec_subsF _, substituteState_forward_inverse s.st⟩⟩
  have hentry : substituteByte .forward 0x00 = 0x63 := by decide
  rw [substituteSt_st, hzero, substituteState_replicate, hentry]

end Sys2Proof.Proofs
end

section
/-! The row transform (`42_row_column.md` R136, R140 to R142): each byte comes from the place its
index table names, so every law of ShiftRows is a fact about 16 indices. -/

namespace Sys2Proof.Proofs

open Sys2Proof.Machine Sys2Proof.Claims

/-! ## The State, byte by byte -/

/-- The source-index table of a direction (R136). -/
def shiftTable : Direction → List Nat
  | .forward => indexF
  | .inverse => indexG

/-- The tables are R135's turn of the rows, place by place. -/
theorem shiftTable_eq_shiftSource (d : Direction) :
    ∀ i < 16, (shiftTable d).getD i 0 = i % 4 + 4 * shiftSource d (i % 4) (i / 4) := by
  cases d <;> decide

theorem shiftTable_lt (d : Direction) : ∀ i < 16, (shiftTable d).getD i 0 < 16 := by
  cases d <;> decide

theorem byteOf_shiftRows (d : Direction) (x : Block) {i : Nat} (h : i < 16) :
    byteOf (shiftRows d x) i = byteOf x ((shiftTable d).getD i 0) := by
  rw [byteOf_eq_getElem _ h, byteOf_eq_getElem _ (shiftTable_lt d i h), getElem_shiftRows]
  simp only [shiftTable_eq_shiftSource d i h]

theorem block_ext {x y : Block} (h : ∀ i < 16, byteOf x i = byteOf y i) : x = y := by
  ext1 i hi
  rw [← byteOf_eq_getElem x hi, ← byteOf_eq_getElem y hi, h i hi]

/-! ## The laws of ShiftRows -/

theorem shiftTable_shiftTable {d e : Direction} (hne : d ≠ e) :
    ∀ i < 16, (shiftTable e).getD ((shiftTable d).getD i 0) 0 = i := by
  cases d <;> cases e
  case forward.inverse | inverse.forward => decide
  all_goals exact absurd rfl hne

/-- Each direction of ShiftRows undoes the other (R140). -/
theorem shiftRows_shiftRows {d e : Direction} (hne : d ≠ e) (x : Block) :
    shiftRows d (shiftRows e x) = x :=
  block_ext fun i hi => by
    rw [byteOf_shiftRows d _ hi, byteOf_shiftRows e _ (shiftTable_lt d i hi),
      shiftTable_shiftTable hne i hi]

theorem shiftRows_substituteState (d e : Direction) (x : Block) :
    shiftRows d (substituteState e x) = substituteState e (shiftRows d x) :=
  block_ext fun i hi => by
    rw [byteOf_shiftRows d _ hi, byteOf_substituteState e _ (shiftTable_lt d i hi),
      byteOf_substituteState e _ hi, byteOf_shiftRows d _ hi]

theorem byteOf_shiftRows_row_zero (d : Direction) (x : Block) {c : Nat} (hc : c < 4) :
    byteOf (shiftRows d x) (4 * c) = byteOf x (4 * c) := by
  have hfixed : ∀ c < 4, (shiftTable d).getD (4 * c) 0 = 4 * c := by cases d <;> decide
  rw [byteOf_shiftRows d x (by omega), hfixed c hc]

/-- Where all columns are equal, a byte is that of its row in column 0. -/
theorem byteOf_eq_byteOf_row {x : Block} (h : ∀ i < 12, byteOf x (i + 4) = byteOf x i) {i : Nat}
    (hi : i < 16) : byteOf x i = byteOf x (i % 4) := by
  induction i using Nat.strong_induction_on with
  | _ i ih =>
    by_cases hlt : i < 4
    · rw [Nat.mod_eq_of_lt hlt]
    · obtain ⟨j, rfl⟩ := Nat.exists_eq_add_of_le' (Nat.le_of_not_lt hlt)
      rw [h j (by omega), ih j (by omega) (by omega), Nat.add_mod_right]

/-- ShiftRows moves no byte out of its row, so equal columns stay as they are (R141). -/
theorem shiftRows_of_equal_columns (d : Direction) {x : Block}
    (h : ∀ i < 12, byteOf x (i + 4) = byteOf x i) : shiftRows d x = x :=
  block_ext fun i hi => by
    have hrow : ∀ i < 16, (shiftTable d).getD i 0 % 4 = i % 4 := by cases d <;> decide
    rw [byteOf_shiftRows d x hi, byteOf_eq_byteOf_row h (shiftTable_lt d i hi), hrow i hi,
      ← byteOf_eq_byteOf_row h hi]

/-! ## The commands -/

theorem exec_shrF (s : State) : exec .shrF s = .next (shiftSt .forward s) := rfl

theorem exec_shrI (s : State) : exec .shrI s = .next (shiftSt .inverse s) := rfl

theorem shiftSt_frame (d : Direction) (s : State) :
    shiftSt d s = { s with st := (shiftSt d s).st, err := 0, sub := 0 } := rfl

/-- Settles O24: the index facts are evaluated at the 16 places. -/
theorem shrPermutesTheBytes : Obligations.ShrPermutesTheBytes := by
  have hmultiples : ∀ i < 16, indexF.getD i 0 = 5 * i % 16 ∧ indexG.getD i 0 = 13 * i % 16 := by
    decide
  have hagree : ∀ i < 16, i % 4 = 0 ∨ i % 4 = 2 → indexF.getD i 0 = indexG.getD i 0 := by decide
  exact ⟨rfl, rfl, hmultiples, hagree,
    fun s => ⟨_, exec_shrF s, shiftSt_frame .forward s,
      fun _ => byteOf_shiftRows .forward s.st, fun _ => byteOf_shiftRows_row_zero .forward s.st,
      shiftRows_of_equal_columns .forward⟩,
    fun s => ⟨_, exec_shrI s, shiftSt_frame .inverse s,
      fun _ => byteOf_shiftRows .inverse s.st, fun _ => byteOf_shiftRows_row_zero .inverse s.st⟩⟩

end Sys2Proof.Proofs
end

section
/-! The column transform (`42_row_column.md` R137, R138, R143 to R145). Over the residues of the
bytes a column is a vector and MixColumns is the product with a matrix, so the laws that hold for
every State come from facts about two matrices of 16 entries. -/

namespace Sys2Proof.Proofs

open Sys2Proof.Machine Sys2Proof.Claims Matrix

/-! ## The State, byte by byte -/

/-- The matrix of a direction, by the numbers of row and place (R138). -/
def mixEntry : Direction → Nat → Nat → Byte
  | .forward => matrixF
  | .inverse => matrixI

theorem mixMatrix_eq_mixEntry (d : Direction) :
    ∀ (r : Nat) (hr : r < 4) (k : Nat) (hk : k < 4), (mixMatrix d)[r][k] = mixEntry d r k := by
  cases d <;> decide

theorem byteOf_mixColumns (d : Direction) (x : Block) {c r : Nat} (hc : c < 4) (hr : r < 4) :
    byteOf (mixColumns d x) (4 * c + r) = mixByte (mixEntry d) x c r := by
  rw [byteOf_eq_getElem _ (by omega), getElem_mixColumns d x c r hc hr, mixByte]
  simp only [mixMatrix_eq_mixEntry, ← byteOf_eq_getElem]

/-! ## The matrices over the residues -/

/-- Column `c` of the State as a vector of residues. -/
noncomputable def residueColumn (x : Block) (c : Fin 4) (k : Fin 4) : AdjoinRoot modulus :=
  residue (byteOf x (4 * c + k))

/-- The matrix of a direction over the residues. -/
noncomputable def residueMatrix (d : Direction) : Matrix (Fin 4) (Fin 4) (AdjoinRoot modulus) :=
  .of fun r k => residue (mixEntry d r k)

theorem block_ext_residueColumn {x y : Block} (h : ∀ c, residueColumn x c = residueColumn y c) :
    x = y :=
  block_ext fun i hi => by
    have hbyte := residue_injective (congrFun (h ⟨i / 4, by omega⟩) ⟨i % 4, by omega⟩)
    rwa [Nat.div_add_mod] at hbyte

theorem residueColumn_mixColumns (d : Direction) (x : Block) (c : Fin 4) :
    residueColumn (mixColumns d x) c = residueMatrix d *ᵥ residueColumn x c := by
  ext r
  rw [residueColumn, byteOf_mixColumns d x c.isLt r.isLt, mixByte, mulVec, dotProduct,
    Fin.sum_univ_four]
  simp only [residue_xor, residue_multiply]
  rfl

theorem residueColumn_xorBlock (x y : Block) (c : Fin 4) :
    residueColumn (xorBlock x y) c = residueColumn x c + residueColumn y c := by
  ext k
  have hlt : 4 * c.val + k.val < 16 := by omega
  simp only [residueColumn, Pi.add_apply, byteOf_eq_getElem _ hlt, getElem_xorBlock, residue_xor]

/-- The product of the two matrices over GF(2^8), entry by entry, is the unit matrix. -/
theorem sum_mixEntry_mul {d e : Direction} (hne : d ≠ e) :
    ∀ r c : Fin 4, multiply (mixEntry d r 0) (mixEntry e 0 c) ^^^
      multiply (mixEntry d r 1) (mixEntry e 1 c) ^^^ multiply (mixEntry d r 2) (mixEntry e 2 c) ^^^
      multiply (mixEntry d r 3) (mixEntry e 3 c) = if r = c then 1 else 0 := by
  cases d <;> cases e
  case forward.inverse | inverse.forward => decide
  all_goals exact absurd rfl hne

theorem residueMatrix_mul {d e : Direction} (hne : d ≠ e) :
    residueMatrix d * residueMatrix e = 1 := by
  ext r c
  have h := congrArg residue (sum_mixEntry_mul hne r c)
  simp only [residue_xor, residue_multiply, apply_ite residue, residue_one, residue_zero] at h
  rw [mul_apply, Fin.sum_univ_four, one_apply]
  exact h

/-! ## The laws of MixColumns -/

/-- Each direction of MixColumns undoes the other (R140). -/
theorem mixColumns_mixColumns {d e : Direction} (hne : d ≠ e) (x : Block) :
    mixColumns d (mixColumns e x) = x :=
  block_ext_residueColumn fun c => by
    rw [residueColumn_mixColumns, residueColumn_mixColumns, mulVec_mulVec, residueMatrix_mul hne,
      one_mulVec]

theorem mixColumns_xorBlock (d : Direction) (x y : Block) :
    mixColumns d (xorBlock x y) = xorBlock (mixColumns d x) (mixColumns d y) :=
  block_ext_residueColumn fun c => by
    simp only [residueColumn_mixColumns, residueColumn_xorBlock, mulVec_add]

/-- The entries of a row sum to 0x01, so four equal bytes stay as they are (R145). -/
theorem mixByte_of_equal_bytes (d : Direction) {x : Block} {c r : Nat} {b : Byte} (hr : r < 4)
    (h : ∀ k < 4, byteOf x (4 * c + k) = b) : mixByte (mixEntry d) x c r = b := by
  have hsum : ∀ r < 4,
      mixEntry d r 0 ^^^ mixEntry d r 1 ^^^ mixEntry d r 2 ^^^ mixEntry d r 3 = 1 := by
    cases d <;> decide
  have h0 : byteOf x (4 * c) = b := h 0 (by decide)
  rw [mixByte, h0, h 1 (by decide), h 2 (by decide), h 3 (by decide), ← multiply_xor_left,
    ← multiply_xor_left, ← multiply_xor_left, hsum r hr, one_multiply]

/-! ## The statements on the transforms -/

/-- Settles O26: a forward byte is its matrix product with the entries 0x01, 0x02 and 0x03 written
by `double`; an inverse byte is its matrix product as it stands. -/
theorem mixColumnsWithXtime : Obligations.MixColumnsWithXtime := by
  obtain ⟨-, -, -, -, -, -, -, hsmall⟩ := multiplyIsAField
  have htwo (v : Byte) : multiply 0x02#8 v = double v := (hsmall v).1
  have hthree (v : Byte) : multiply 0x03#8 v = double v ^^^ v := (hsmall v).2.1
  have hone (v : Byte) : multiply 0x01#8 v = v := one_multiply v
  refine ⟨fun x c hc => ?_, fun x c hc => ?_,
    fun d x c b hc h k hk => (byteOf_mixColumns d x hc hk).trans (mixByte_of_equal_bytes d hk h),
    mixColumns_xorBlock⟩
  · have hrow (r : Nat) (hr : r < 4) := byteOf_mixColumns .forward x hc hr
    refine ⟨(hrow 0 (by decide)).trans ?_, (hrow 1 (by decide)).trans ?_,
      (hrow 2 (by decide)).trans ?_, (hrow 3 (by decide)).trans ?_⟩
    all_goals
      simp only [mixByte, mixEntry, matrixF, entry, List.getD_cons_zero, List.getD_cons_succ, htwo,
        hthree, hone, Nat.add_zero]
  · have hrow (r : Nat) (hr : r < 4) := byteOf_mixColumns .inverse x hc hr
    exact ⟨hrow 0 (by decide), hrow 1 (by decide), hrow 2 (by decide), hrow 3 (by decide)⟩

/-- Settles O27: each pair of directions is a pair of different ones, in both orders. -/
theorem transformsAreInverse : Obligations.TransformsAreInverse := fun x =>
  ⟨shiftRows_shiftRows (by decide) x, shiftRows_shiftRows (by decide) x,
    mixColumns_mixColumns (by decide) x, mixColumns_mixColumns (by decide) x,
    substituteState_inverse_forward x, substituteState_forward_inverse x,
    fun d e => shiftRows_substituteState d e x⟩

/-! ## The commands -/

theorem exec_mixcF (s : State) : exec .mixcF s = .next (mixSt .forward s) := rfl

theorem exec_mixcI (s : State) : exec .mixcI s = .next (mixSt .inverse s) := rfl

theorem mixSt_frame (d : Direction) {s : State} (h : s.hidden = Hidden.idle) :
    mixSt d s = { s with st := (mixSt d s).st, err := 0, sub := 0 } :=
  clearHidden_of_idle h

/-- Settles O25: from an idle state clearing the hidden registers changes nothing. -/
theorem mixcMultipliesByTheMatrix : Obligations.MixcMultipliesByTheMatrix :=
  ⟨rfl, rfl,
    fun s hs => ⟨_, exec_mixcF s, mixSt_frame .forward hs,
      fun _ _ => byteOf_mixColumns .forward s.st⟩,
    fun s hs => ⟨_, exec_mixcI s, mixSt_frame .inverse hs,
      fun _ _ => byteOf_mixColumns .inverse s.st⟩⟩

end Sys2Proof.Proofs
end

section
/-! The key schedule, word by word (`43_key_schedule.md` R151 to R157): each word `ExpandKey` writes
is the value of P-R152 at the words before it, whatever number of words is asked for. -/

namespace Sys2Proof.Proofs

open Sys2Proof.Machine Sys2Proof.Claims

/-! ## The words -/

@[simp] theorem length_scheduleWords (nk : Nat) (key : List Byte) (n : Nat) :
    (scheduleWords nk key n).length = n := by
  induction n with
  | zero => rfl
  | succ n ih => simp [scheduleWords, ih]

/-- Word `i` of the schedule, of however many words (`wordAt_scheduleWords`). -/
def scheduleWord (nk : Nat) (key : List Byte) (i : Nat) : Word4 :=
  nextWord nk key (scheduleWords nk key i) i

theorem wordAt_of_length_le {ws : List Word4} {i : Nat} (h : ws.length ≤ i) :
    wordAt ws i = Vector.replicate 4 0 := by
  simp [wordAt, List.getElem?_eq_none h]

theorem wordAt_scheduleWords {nk : Nat} {key : List Byte} {n i : Nat} (h : i < n) :
    wordAt (scheduleWords nk key n) i = scheduleWord nk key i := by
  induction n with
  | zero => exact absurd h (Nat.not_lt_zero i)
  | succ n ih =>
    rw [scheduleWords, wordAt]
    rcases Nat.lt_succ_iff_lt_or_eq.1 h with hlt | rfl
    · rw [List.getD_append _ _ _ _ (by simpa using hlt)]
      exact ih hlt
    · rw [List.getD_append_right _ _ _ _ (by simp)]
      simp [scheduleWord]

theorem scheduleWord_of_lt {nk : Nat} {key : List Byte} {i : Nat} (h : i < nk) :
    scheduleWord nk key i = keyWord key i := if_pos h

/-- P-R152 beyond the key: word `i` from the words `i - 1` and `i - nk` of the same schedule. -/
theorem scheduleWord_of_le {nk : Nat} {key : List Byte} {i : Nat} (hpos : 0 < nk) (h : nk ≤ i) :
    scheduleWord nk key i =
      if i % nk = 0 then
        xorWord (xorWord (subWord (rotWord (scheduleWord nk key (i - 1)))) (rconWord (i / nk)))
          (scheduleWord nk key (i - nk))
      else if nk = 8 ∧ i % nk = 4 then
        xorWord (subWord (scheduleWord nk key (i - 1))) (scheduleWord nk key (i - nk))
      else xorWord (scheduleWord nk key (i - 1)) (scheduleWord nk key (i - nk)) := by
  have hlast : wordAt (scheduleWords nk key i) (i - 1) = scheduleWord nk key (i - 1) :=
    wordAt_scheduleWords (by omega)
  have hback : wordAt (scheduleWords nk key i) (i - nk) = scheduleWord nk key (i - nk) :=
    wordAt_scheduleWords (by omega)
  rw [scheduleWord, nextWord, if_neg (Nat.not_lt.2 h), hlast, hback]

/-! ## The bytes of a word -/

@[simp] theorem getElem_xorWord (x y : Word4) (k : Nat) (h : k < 4) :
    (xorWord x y)[k] = x[k] ^^^ y[k] := by
  simp [xorWord]

@[simp] theorem getElem_subWord (w : Word4) (k : Nat) (h : k < 4) :
    (subWord w)[k] = sbox w[k] := by
  simp [subWord]

@[simp] theorem getElem_rotWord (w : Word4) (k : Nat) (h : k < 4) :
    (rotWord w)[k] = w[(k + 1) % 4]'(Nat.mod_lt _ (by decide)) := by
  interval_cases k <;> rfl

@[simp] theorem getElem_rconWord (j k : Nat) (h : k < 4) :
    (rconWord j)[k] = if k = 0 then rcon j else 0 := by
  interval_cases k <;> rfl

@[simp] theorem getElem_keyWord (key : List Byte) (i k : Nat) (h : k < 4) :
    (keyWord key i)[k] = key.getD (4 * i + k) 0 := by
  simp [keyWord]

/-! ## The bytes of the schedule -/

theorem rcon_eq_rconTable {j : Nat} (h1 : 1 ≤ j) (h14 : j ≤ 14) : rcon j = rconTable j := by
  obtain ⟨-, -, -, hprinted⟩ := xtimeIsMultiplyByTwo
  exact hprinted j h1 h14

theorem wordByte_eq_getElem (rk : Vector Byte 240) {i k : Nat} (h : 4 * i + k < 240) :
    wordByte rk i k = rk[4 * i + k] := by
  simp [wordByte, h]

/-- `W[i]` stands in RK as bytes 4i to 4i + 3 (R151). -/
theorem wordByte_expandKey (key : List Byte) {i k : Nat} (hi : i < 60) (hk : k < 4) :
    wordByte (expandKey key) i k =
      (wordAt (scheduleWords (keyWords key) key (4 * (keyRounds key + 1))) i)[k] := by
  have hdiv : (4 * i + k) / 4 = i := by omega
  have hmod : (4 * i + k) % 4 = k := by omega
  rw [wordByte_eq_getElem _ (show 4 * i + k < 240 by omega)]
  unfold expandKey
  simp only [Vector.getElem_ofFn, hdiv, hmod]

section ExpandKey
variable {key : List Byte} {nk : Nat} (hlen : key.length = 4 * nk)
include hlen

theorem keyWords_of_length : keyWords key = nk := by
  rw [keyWords, hlen]
  exact Nat.mul_div_cancel_left nk (by decide)

theorem keyRounds_of_length : keyRounds key = nk + 6 := by rw [keyRounds, keyWords_of_length hlen]

theorem wordByte_expandKey_of_lt (h8 : nk ≤ 8) {i k : Nat} (hi : i < 4 * (nk + 7)) (hk : k < 4) :
    wordByte (expandKey key) i k = (scheduleWord nk key i)[k] := by
  rw [wordByte_expandKey key (by omega) hk, keyWords_of_length hlen, keyRounds_of_length hlen,
    wordAt_scheduleWords hi]

theorem wordByte_expandKey_of_le {i k : Nat} (hi : 4 * (nk + 7) ≤ i) (h60 : i < 60) (hk : k < 4) :
    wordByte (expandKey key) i k = 0 := by
  rw [wordByte_expandKey key h60 hk, keyRounds_of_length hlen,
    wordAt_of_length_le ((length_scheduleWords ..).trans_le hi)]
  exact Vector.getElem_replicate hk

/-- R152 to R156: RK after `ExpandKey` satisfies the recurrence. Beyond the key, `i / nk` is at most
10, so the round constants are printed ones. -/
theorem scheduleOf_expandKey (h4 : 4 ≤ nk) (h8 : nk ≤ 8) : ScheduleOf key nk (expandKey key) := by
  have hword {i k : Nat} (hi : i < 4 * (nk + 7)) (hk : k < 4) :=
    wordByte_expandKey_of_lt hlen h8 hi hk
  refine ⟨fun i k hi hk => ?_, fun i k hle hi hk => ?_, fun j hj h240 => ?_⟩
  · rw [hword (by omega) hk, scheduleWord_of_lt hi, getElem_keyWord]
  · have hfirst : 1 ≤ i / nk := Nat.div_pos hle (by omega)
    have hlast : i / nk < 11 := Nat.div_lt_of_lt_mul (by omega)
    rw [hword hi hk, hword (by omega) hk, hword (by omega) hk,
      hword (by omega) (Nat.mod_lt (k + 1) (by decide)), scheduleWord_of_le (by omega) hle,
      ← rcon_eq_rconTable hfirst (by omega)]
    split
    · simp
    · split <;> simp
  · have hbyte : wordByte (expandKey key) (j / 4) (j % 4) = 0 :=
      wordByte_expandKey_of_le hlen (by omega) (by omega) (Nat.mod_lt j (by decide))
    rwa [wordByte, Nat.div_add_mod] at hbyte

end ExpandKey

/-- Round key 0 of a schedule is the first 16 bytes of its key (R152, R155). -/
theorem getElem_of_scheduleOf {key : List Byte} {nk : Nat} {rk : Vector Byte 240}
    (h : ScheduleOf key nk rk) (h4 : 4 ≤ nk) (i : Fin 16) : rk[i.val] = key.getD i.val 0 := by
  obtain ⟨hkey, -, -⟩ := h
  have hbyte := hkey (i.val / 4) (i.val % 4) (by omega) (Nat.mod_lt i.val (by decide))
  simpa only [wordByte_eq_getElem rk (show 4 * (i.val / 4) + i.val % 4 < 240 by omega),
    Nat.div_add_mod] using hbyte

end Sys2Proof.Proofs
end

section
/-! KEXP (`43_key_schedule.md` R156), and the schedule a block function takes
(`44_block_engine.md` R169, `60_exceptions.md` R253). -/

namespace Sys2Proof.Proofs

open Sys2Proof.Machine Sys2Proof.Claims

/-! ## KEXP -/

theorem exec_kexp_of_keyVariant {s : State} {v : Variant} (h : keyVariant s = some v) :
    exec .kexp s = .next (succeed (expandState s)) := by
  rw [exec, execKexp, h]

theorem exec_kexp_of_no_keyVariant {s : State} (h : keyVariant s = none) :
    exec .kexp s = .next (raiseError .primitive (.keyMaterialUnavailable causeKlen) s) := by
  rw [exec, execKexp, h]

theorem scheduleOf_keyBytes {s : State} {v : Variant} (h : keyVariant s = some v) :
    ScheduleOf (keyBytes s) (v.keyLength / 4) (expandKey (keyBytes s)) := by
  have hlen := length_keyBytes h
  cases v <;> exact scheduleOf_expandKey hlen (by decide) (by decide)

theorem getElem_expandKey_keyBytes {s : State} {v : Variant} (h : keyVariant s = some v)
    (i : Fin 16) : (expandKey (keyBytes s))[i.val] = s.key[i.val] := by
  have h4 : 4 ≤ v.keyLength / 4 := by cases v <;> decide
  have hklen : i.val < s.klen.toNat := by
    rw [(keyVariant_eq_some s v).1 h]
    omega
  have h32 : i.val < 32 := by omega
  rw [getElem_of_scheduleOf (scheduleOf_keyBytes h) h4]
  simp [keyBytes, List.getD, List.getElem?_take_of_lt hklen, h32]

/-- Settles O28: the words of `ExpandKey` satisfy the recurrence, and an error from an idle state
changes ERR and SUB only. -/
theorem kexpExpandsTheKey : Obligations.KexpExpandsTheKey := by
  refine ⟨rfl, fun s hs => ?_, fun s hs hidle => ?_⟩
  · obtain ⟨v, hv⟩ := Option.ne_none_iff_exists'.1 fun h => (keyVariant_eq_none s).1 h hs
    have hklen := (keyVariant_eq_some s v).1 hv
    refine ⟨_, exec_kexp_of_keyVariant hv, rfl, ?_, ?_, getElem_expandKey_keyBytes hv⟩
    · have hrounds : v.rounds = v.keyLength / 4 + 6 := by cases v <;> rfl
      rw [hklen, ← hrounds]
      exact nr_expandState hv
    · have hschedule := scheduleOf_keyBytes hv
      rwa [← hklen] at hschedule
  · rw [exec_kexp_of_no_keyVariant ((keyVariant_eq_none s).2 hs), raiseError_primitive_idle _ hidle]
    rfl

/-! ## The schedule of a block function -/

/-- Byte `j` of round key `r` by numbers (R155), as `getElem_scheduleIn` says it. -/
theorem byteOf_scheduleIn (v : Variant) (rk : Vector Byte 240) {r j : Nat} (hr : r ≤ v.rounds)
    (hj : j < 16) :
    byteOf ((scheduleIn v rk).toList.getD r (Vector.replicate 16 0)) j =
      rk.toList.getD (16 * r + j) 0 := by
  have hround : r < v.rounds + 1 := Nat.lt_succ_of_le hr
  have hbyte : 16 * r + j < 240 := by
    have := v.rounds_le
    omega
  simp [byteOf_eq_getElem _ hj, hround, hbyte]

theorem exec_blockCommand_of_no_schedule {i : Instr} (hi : BlockCommand i) {s : State}
    (h : heldVariant s = none) :
    exec i s = .next (raiseError .primitive .scheduleInvalid s) := by
  rcases hi with ⟨r, rfl⟩ | rfl | rfl
  · rw [exec, execAddrk, heldRoundKey, h]
  · rw [exec, execEncb, h]
  · rw [exec, execDecb, h]

theorem isSome_heldRoundKey_iff (s : State) (r : Nat) :
    (heldRoundKey s r).isSome ↔ ScheduleOk s ∧ r ≤ s.nr.toNat := by
  cases hv : heldVariant s with
  | none =>
    have hnot : ¬ScheduleOk s := (heldVariant_eq_none s).1 hv
    simp [heldRoundKey, hv, hnot]
  | some v =>
    obtain ⟨hrkv, hnr⟩ := (heldVariant_eq_some s v).1 hv
    have hok : ScheduleOk s := ⟨hrkv, by rw [hnr]; cases v <;> decide⟩
    by_cases hr : r ≤ v.rounds
    · rw [heldRoundKey_of_le hv hr, hnr]
      exact iff_of_true rfl ⟨hok, hr⟩
    · have hnone : heldRoundKey s r = none := heldRoundKey_eq_none (.inr (by omega))
      simp [hnone, hnr, hr]

theorem scheduleOk_of_inv {s : State} (h : Inv s) (hrkv : s.rkv = true) : ScheduleOk s := by
  obtain ⟨v, -, -, hnr, -⟩ := h.valid hrkv
  refine ⟨hrkv, ?_⟩
  rw [hnr]
  cases v <;> decide

/-- Settles O59: the commands find a schedule exactly where RKV = 1 beside the round count of a
variant, which is what the invariant says of RKV = 1. -/
theorem blockFunctionsTakeAMatchingSchedule : Obligations.BlockFunctionsTakeAMatchingSchedule := by
  refine ⟨fun v rk => ⟨by simp, fun r j => byteOf_scheduleIn v rk⟩, fun s i _ hno hidle hi => ?_,
    isSome_heldRoundKey_iff, fun s h hrkv => scheduleOk_of_inv h hrkv⟩
  rw [exec_blockCommand_of_no_schedule hi ((heldVariant_eq_none s).2 hno),
    raiseError_primitive_idle _ hidle]
  rfl

end Sys2Proof.Proofs
end

section
/-! The block functions (`44_block_engine.md` R165 to R168). A round key added twice is gone,
and the inverse transforms undo the forward ones, so P-R167 takes back the steps of P-R166 one by
one. -/

namespace Sys2Proof.Proofs

open Sys2Proof.Machine

/-! ## The steps of a round -/

theorem byteOf_addRoundKey (x k : Block) {j : Nat} (h : j < 16) :
    Claims.byteOf (addRoundKey x k) j = Claims.byteOf x j ^^^ Claims.byteOf k j := by
  simp only [byteOf_eq_getElem _ h, addRoundKey, getElem_xorBlock]

/-- AddRoundKey is its own inverse (R165). -/
@[simp] theorem addRoundKey_addRoundKey (x k : Block) : addRoundKey (addRoundKey x k) k = x :=
  xorBlock_xorBlock x k

theorem inverse_ne_forward : Direction.inverse ≠ .forward := nofun

/-- The substitution and row steps of a round of P-R166. -/
def subShift (x : Block) : Block := shiftRows .forward (substituteState .forward x)

/-- The row and substitution steps of a round of P-R167. -/
def unshiftSub (x : Block) : Block := substituteState .inverse (shiftRows .inverse x)

@[simp] theorem unshiftSub_subShift (x : Block) : unshiftSub (subShift x) = x := by
  rw [unshiftSub, subShift, shiftRows_shiftRows inverse_ne_forward, substituteState_inverse_forward]

@[simp] theorem subShift_unshiftSub (x : Block) : subShift (unshiftSub x) = x := by
  rw [unshiftSub, subShift, substituteState_forward_inverse,
    shiftRows_shiftRows inverse_ne_forward.symm]

theorem encRound_eq (k x : Block) :
    encRound k x = addRoundKey (mixColumns .forward (subShift x)) k := rfl

theorem decRound_eq (k x : Block) :
    decRound k x = mixColumns .inverse (addRoundKey (unshiftSub x) k) := rfl

theorem encFinal_eq (k x : Block) : encFinal k x = addRoundKey (subShift x) k := rfl

theorem decFinal_eq (k x : Block) : decFinal k x = addRoundKey (unshiftSub x) k := rfl

theorem encryptBlock_eq {v : Variant} (ks : Schedule v) (x : Block) :
    encryptBlock ks x =
      encFinal ks[v.rounds] (encRounds (middleKeys ks) (addRoundKey x ks[0])) := by
  unfold encryptBlock
  rfl

theorem decryptBlock_eq {v : Variant} (ks : Schedule v) (x : Block) :
    decryptBlock ks x =
      decFinal ks[0] (decRounds (middleKeys ks) (addRoundKey x ks[v.rounds])) := by
  unfold decryptBlock
  rfl

/-! ## The rounds undo each other -/

/-- The rounds of P-R167 lie half a round off those of P-R166: they start behind a `subShift`. -/
theorem decRounds_subShift_encRounds (ks : List Block) (x : Block) :
    decRounds ks (subShift (encRounds ks x)) = subShift x := by
  induction ks generalizing x with
  | nil => rfl
  | cons k ks ih =>
    rw [encRounds, decRounds, ih, decRound_eq, unshiftSub_subShift, encRound_eq,
      addRoundKey_addRoundKey, mixColumns_mixColumns inverse_ne_forward]

/-- The other way round, P-R166 starts behind an `unshiftSub`. -/
theorem encRounds_unshiftSub_decRounds (ks : List Block) (x : Block) :
    encRounds ks (unshiftSub (decRounds ks x)) = unshiftSub x := by
  induction ks with
  | nil => rfl
  | cons k ks ih =>
    rw [decRounds, encRounds, encRound_eq, subShift_unshiftSub, decRound_eq,
      mixColumns_mixColumns inverse_ne_forward.symm, addRoundKey_addRoundKey, ih]

@[simp] theorem decryptBlock_encryptBlock {v : Variant} (ks : Schedule v) (x : Block) :
    decryptBlock ks (encryptBlock ks x) = x := by
  rw [encryptBlock_eq, decryptBlock_eq, encFinal_eq, addRoundKey_addRoundKey,
    decRounds_subShift_encRounds, decFinal_eq, unshiftSub_subShift, addRoundKey_addRoundKey]

@[simp] theorem encryptBlock_decryptBlock {v : Variant} (ks : Schedule v) (x : Block) :
    encryptBlock ks (decryptBlock ks x) = x := by
  rw [encryptBlock_eq, decryptBlock_eq, decFinal_eq, addRoundKey_addRoundKey,
    encRounds_unshiftSub_decRounds, encFinal_eq, subShift_unshiftSub, addRoundKey_addRoundKey]

/-- Settles O32: each function is a left and a right inverse of the other. -/
theorem decryptInvertsEncrypt : Obligations.DecryptInvertsEncrypt := fun _ ks =>
  have hde := decryptBlock_encryptBlock ks
  have hed := encryptBlock_decryptBlock ks
  ⟨hde, hed, Function.bijective_iff_has_inverse.2 ⟨_, hde, hed⟩,
    Function.bijective_iff_has_inverse.2 ⟨_, hed, hde⟩⟩

end Sys2Proof.Proofs
end

section
/-! ADDRK, ENCB and DECB (`44_block_engine.md` R173 to R175). -/

namespace Sys2Proof.Proofs

open Sys2Proof.Machine Sys2Proof.Claims

/-! ## What the commands do where a schedule is held -/

/-- The end of a primitive command that has put a block in ST: ERR and SUB are 0. -/
def completeWithSt (x : Block) (s : State) : State := succeed { s with st := x }

@[simp] theorem completeWithSt_st (x : Block) (s : State) : (completeWithSt x s).st = x := rfl

theorem completeWithSt_eq (x : Block) (s : State) :
    completeWithSt x s = { s with st := x, err := 0, sub := 0 } := rfl

theorem exec_addrk_of_heldRoundKey {s : State} {r : Nat} {k : Block}
    (h : heldRoundKey s r = some k) :
    exec (.addrk r) s = .next (completeWithSt (addRoundKey s.st k) s) := by
  rw [exec, execAddrk, h]
  rfl

theorem exec_addrk_of_no_roundKey {s : State} {r : Nat} (h : heldRoundKey s r = none) :
    exec (.addrk r) s = .next (raiseError .primitive .scheduleInvalid s) := by
  rw [exec, execAddrk, h]

theorem exec_encb_of_heldVariant {s : State} {v : Variant} (h : heldVariant s = some v)
    (hidle : s.hidden = Hidden.idle) :
    exec .encb s = .next (completeWithSt (encryptBlock (scheduleIn v s.rk) s.st) s) := by
  rw [exec, execEncb, h]
  exact congrArg _ (clearHidden_of_idle hidle)

theorem exec_decb_of_heldVariant {s : State} {v : Variant} (h : heldVariant s = some v)
    (hidle : s.hidden = Hidden.idle) :
    exec .decb s = .next (completeWithSt (decryptBlock (scheduleIn v s.rk) s.st) s) := by
  rw [exec, execDecb, h]
  exact congrArg _ (clearHidden_of_idle hidle)

theorem exists_heldVariant {s : State} (h : ScheduleOk s) : ∃ v, heldVariant s = some v :=
  Option.ne_none_iff_exists'.1 fun hnone => (heldVariant_eq_none s).1 hnone h

/-- A round key up to NR is there; its bytes stand in RK from 16r on (R155). -/
theorem exists_heldRoundKey {s : State} {r : Nat} (h : ScheduleOk s) (hr : r ≤ s.nr.toNat) :
    ∃ k, heldRoundKey s r = some k ∧
      ∀ j < 16, byteOf k j = s.rk.toList.getD (16 * r + j) 0 := by
  obtain ⟨v, hv⟩ := exists_heldVariant h
  rw [((heldVariant_eq_some s v).1 hv).2] at hr
  refine ⟨_, heldRoundKey_of_le hv hr, fun j hj => ?_⟩
  rw [← byteOf_scheduleIn v s.rk hr hj]
  simp [Nat.lt_succ_of_le hr]

/-! ## The statements -/

/-- Settles O29: the word of each index is evaluated, and adding the same round key again restores
ST. -/
theorem addrkAddsTheRoundKey : Obligations.AddrkAddsTheRoundKey := by
  refine ⟨by decide, fun s r hok hr => ?_, fun s r hno hidle => ?_⟩
  · obtain ⟨k, hk, hbytes⟩ := exists_heldRoundKey hok hr
    refine ⟨_, exec_addrk_of_heldRoundKey hk, rfl, fun j hj => ?_,
      _, exec_addrk_of_heldRoundKey hk, addRoundKey_addRoundKey s.st k⟩
    rw [completeWithSt_st, byteOf_addRoundKey _ _ hj, hbytes j hj]
  · rw [exec_addrk_of_no_roundKey (heldRoundKey_eq_none hno), raiseError_primitive_idle _ hidle]
    rfl

/-- Settles O30: the state after either command holds the same schedule, so the other command undoes
it. -/
theorem blockCommandsTransformSt : Obligations.BlockCommandsTransformSt := by
  refine ⟨rfl, rfl, fun s v hrkv hnr hidle => ?_, fun s hrkv hidle => ?_⟩
  · have hv : heldVariant s = some v := (heldVariant_eq_some s v).2 ⟨hrkv, hnr⟩
    have henc := exec_encb_of_heldVariant hv hidle
    have hdec := exec_decb_of_heldVariant hv hidle
    exact ⟨henc, hdec,
      ⟨_, _, henc, exec_decb_of_heldVariant hv hidle, decryptBlock_encryptBlock _ _⟩,
      ⟨_, _, hdec, exec_encb_of_heldVariant hv hidle, encryptBlock_decryptBlock _ _⟩⟩
  · have hno : heldVariant s = none := (heldVariant_eq_none s).2 fun h => by simp [hrkv] at h
    rw [exec_blockCommand_of_no_schedule (.inr (.inl rfl)) hno,
      exec_blockCommand_of_no_schedule (.inr (.inr rfl)) hno, raiseError_primitive_idle _ hidle]
    exact ⟨rfl, rfl⟩

end Sys2Proof.Proofs
end

section
/-! A block command walked through with primitive commands (`44_block_engine.md` R172): each command
of the script puts its transform of ST in ST, so the script puts the composition there. -/

namespace Sys2Proof.Proofs

open Sys2Proof.Machine Sys2Proof.Claims

/-! ## Running a list of commands -/

theorem execAll_cons {i : Instr} {is : List Instr} {s t : State} (h : exec i s = .next t) :
    execAll (i :: is) s = execAll is t := by
  rw [execAll, h]

theorem execAll_append {is js : List Instr} {s t : State} (h : execAll is s = .next t) :
    execAll (is ++ js) s = execAll js t := by
  induction is generalizing s with
  | nil =>
    cases h
    rfl
  | cons i is ih =>
    rw [execAll] at h
    split at h
    next u hu => rw [List.cons_append, execAll_cons hu, ih h]
    all_goals cases h

/-! ## The round keys by their numbers -/

/-- `ks` are the round keys of the numbers `rs`, in order, in the schedule `s` holds. -/
abbrev RoundKeys (s : State) : List Nat → List Block → Prop :=
  List.Forall₂ fun r k => heldRoundKey s r = some k

theorem roundKeys_middleKeys {s : State} {v : Variant} (h : heldVariant s = some v) :
    RoundKeys s (List.range' 1 (v.rounds - 1)) (middleKeys (scheduleIn v s.rk)) := by
  refine List.forall₂_iff_get.2 ⟨by simp [middleKeys], fun i hi _ => ?_⟩
  rw [List.length_range'] at hi
  have hle : i + 1 ≤ v.rounds := by omega
  simpa [middleKeys, Nat.add_comm 1 i] using heldRoundKey_of_le h hle

/-! ## The transforms, with any commands behind them -/

/-- SUBS.F and SHR.F. -/
theorem execAll_subShift (x : Block) (s : State) (is : List Instr) :
    execAll (.subsF :: .shrF :: is) (completeWithSt x s) =
      execAll is (completeWithSt (subShift x) s) := by
  rw [execAll_cons (exec_subsF _), execAll_cons (exec_shrF _)]
  rfl

/-- SHR.I and SUBS.I. -/
theorem execAll_unshiftSub (x : Block) (s : State) (is : List Instr) :
    execAll (.shrI :: .subsI :: is) (completeWithSt x s) =
      execAll is (completeWithSt (unshiftSub x) s) := by
  rw [execAll_cons (exec_shrI _), execAll_cons (exec_subsI _)]
  rfl

theorem execAll_addrk {s : State} {r : Nat} {k : Block} (hk : heldRoundKey s r = some k)
    (x : Block) (is : List Instr) :
    execAll (.addrk r :: is) (completeWithSt x s) =
      execAll is (completeWithSt (addRoundKey x k) s) :=
  execAll_cons (exec_addrk_of_heldRoundKey (s := completeWithSt x s) hk)

section Script
variable {s : State} (hidle : s.hidden = Hidden.idle)
include hidle

theorem mixSt_completeWithSt (d : Direction) (x : Block) :
    mixSt d (completeWithSt x s) = completeWithSt (mixColumns d x) s :=
  mixSt_frame d (s := completeWithSt x s) hidle

/-! ## The scripts -/

theorem execAll_encryptRoundScript {r : Nat} {k : Block} (hk : heldRoundKey s r = some k)
    (x : Block) :
    execAll (encryptRoundScript r) (completeWithSt x s) =
      .next (completeWithSt (encRound k x) s) := by
  rw [encryptRoundScript, execAll_subShift, execAll_cons (exec_mixcF _),
    mixSt_completeWithSt hidle, execAll_addrk hk]
  rfl

theorem execAll_decryptRoundScript {r : Nat} {k : Block} (hk : heldRoundKey s r = some k)
    (x : Block) :
    execAll (decryptRoundScript r) (completeWithSt x s) =
      .next (completeWithSt (decRound k x) s) := by
  rw [decryptRoundScript, execAll_unshiftSub, execAll_addrk hk, execAll_cons (exec_mixcI _),
    mixSt_completeWithSt hidle]
  rfl

theorem execAll_encryptRounds {rs : List Nat} {ks : List Block} (h : RoundKeys s rs ks)
    (x : Block) :
    execAll (rs.flatMap encryptRoundScript) (completeWithSt x s) =
      .next (completeWithSt (encRounds ks x) s) := by
  induction h generalizing x with
  | nil => rfl
  | cons hk _ ih =>
    rw [List.flatMap_cons, execAll_append (execAll_encryptRoundScript hidle hk x), ih, encRounds]

/-- Decryption takes the round keys from the last to the first (R167). -/
theorem execAll_decryptRounds {rs : List Nat} {ks : List Block} (h : RoundKeys s rs ks)
    (x : Block) :
    execAll (rs.reverse.flatMap decryptRoundScript) (completeWithSt x s) =
      .next (completeWithSt (decRounds ks x) s) := by
  induction h with
  | nil => rfl
  | cons hk _ ih =>
    rw [List.reverse_cons, List.flatMap_append, execAll_append ih, List.flatMap_singleton,
      execAll_decryptRoundScript hidle hk, decRounds]

theorem execAll_encryptScript {v : Variant} (h : heldVariant s = some v) :
    execAll (encryptScript v.rounds) s =
      .next (completeWithSt (encryptBlock (scheduleIn v s.rk) s.st) s) := by
  rw [encryptScript, List.append_assoc, List.singleton_append,
    execAll_cons (exec_addrk_of_heldRoundKey (heldRoundKey_of_le h (Nat.zero_le _))),
    execAll_append (execAll_encryptRounds hidle (roundKeys_middleKeys h) _), execAll_subShift,
    execAll_addrk (heldRoundKey_of_le h le_rfl), encryptBlock_eq]
  rfl

theorem execAll_decryptScript {v : Variant} (h : heldVariant s = some v) :
    execAll (decryptScript v.rounds) s =
      .next (completeWithSt (decryptBlock (scheduleIn v s.rk) s.st) s) := by
  rw [decryptScript, List.append_assoc, List.singleton_append,
    execAll_cons (exec_addrk_of_heldRoundKey (heldRoundKey_of_le h le_rfl)),
    execAll_append (execAll_decryptRounds hidle (roundKeys_middleKeys h) _), execAll_unshiftSub,
    execAll_addrk (heldRoundKey_of_le h (Nat.zero_le _)), decryptBlock_eq]
  rfl

end Script

/-- Settles O31: script and block command both end with the block function of ST in ST. -/
theorem blockCommandsEqualTheirPrimitives : Obligations.BlockCommandsEqualTheirPrimitives := by
  intro s hok hidle
  obtain ⟨v, hv⟩ := exists_heldVariant hok
  rw [((heldVariant_eq_some s v).1 hv).2]
  exact ⟨(execAll_encryptScript hidle hv).trans (exec_encb_of_heldVariant hv hidle).symm,
    (execAll_decryptScript hidle hv).trans (exec_decb_of_heldVariant hv hidle).symm⟩

end Sys2Proof.Proofs
end

section
/-! The round sequencer (`44_block_engine.md` R170 to R172). Its rounds run from one round number to
another with the round keys between them, and an IDLE sequencer stays IDLE, so that one in its last
phase was never IDLE on the way. -/

namespace Sys2Proof.Proofs

open Sys2Proof.Machine

/-! ## Running micro-steps -/

theorem microSteps_add (m : SeqMode) (a b : Nat) (s : State) :
    microSteps m (a + b) s = (microSteps m a s).bind (microSteps m b) := by
  induction a generalizing s with
  | zero => rw [Nat.zero_add, microSteps, Option.bind_some]
  | succ a ih =>
    rw [Nat.add_right_comm, microSteps, microSteps, Option.bind_assoc]
    exact congrArg _ (funext ih)

theorem microSteps_one (m : SeqMode) (s : State) : microSteps m 1 s = microStep m s :=
  Option.bind_fun_some _

theorem microSteps_of_pos (m : SeqMode) {n : Nat} (h : 0 < n) (s : State) :
    microSteps m n s = (microStep m s).bind (microSteps m (n - 1)) := by
  obtain ⟨n, rfl⟩ := Nat.exists_eq_succ_of_ne_zero h.ne'
  rfl

theorem microSteps_idle (m : SeqMode) (n : Nat) {s : State} (h : s.hidden.phase = .idle) :
    microSteps m n s = some s := by
  have hstep : microStep m s = some s := by
    simp only [microStep, h]
  induction n with
  | zero => rfl
  | succ n ih => rw [microSteps, hstep, Option.bind_some, ih]

theorem exists_microSteps_not_idle {m : SeqMode} {n k : Nat} {s t : State}
    (h : microSteps m n s = some t) (ht : t.hidden.phase ≠ .idle) (hk : k ≤ n) :
    ∃ u, microSteps m k s = some u ∧ u.hidden.phase ≠ .idle := by
  rw [← Nat.add_sub_of_le hk, microSteps_add] at h
  obtain ⟨u, hu, hrest⟩ := Option.bind_eq_some_iff.1 h
  refine ⟨u, hu, fun hidle => ht ?_⟩
  rw [microSteps_idle m _ hidle] at hrest
  cases hrest
  exact hidle

/-! ## One micro-step

In a phase that needs a round key `microStep` maps its effect over that key, so it is `congrArg` at
the key the schedule holds; what is left in a round is the arithmetic of the 4-bit counter R. -/

/-- The sequencer stands in phase `p` at round `r`, with `x` in ST. -/
def atPhase (p : Phase) (r : Nat) (x : Block) (s : State) : State :=
  { s with st := x, hidden := { s.hidden with phase := p, round := BitVec.ofNat 4 r } }

/-- The phase of encryption at round `r` (R170). -/
def encPhase (s : State) (r : Nat) : Phase := if r < s.nr.toNat then .eRound else .eFinal

/-- The phase of decryption at round `r` (R171). -/
def decPhase (r : Nat) : Phase := if 0 < r then .dRound else .dFinal

section MicroStep
variable (m : SeqMode) (x : Block) {s : State} {r : Nat} {k : Block}

theorem microStep_eInit (hk : heldRoundKey s 0 = some k) :
    microStep m (atPhase .eInit r x s) = some (atPhase .eRound 1 (addRoundKey x k) s) :=
  congrArg (Option.map _) hk

theorem microStep_eRound (hr : r < s.nr.toNat) (hk : heldRoundKey s r = some k) :
    microStep m (atPhase .eRound r x s) =
      some (atPhase (encPhase s (r + 1)) (r + 1) (encRound k x) s) := by
  have h16 := s.nr.isLt
  have hround : (BitVec.ofNat 4 r).toNat = r := Nat.mod_eq_of_lt (by omega)
  have hnext : BitVec.ofNat 4 r + 1 = BitVec.ofNat 4 (r + 1) := BitVec.ofNat_add_ofNat r 1
  have hle : (BitVec.ofNat 4 (r + 1)).toNat ≤ s.nr.toNat - 1 ↔ r + 1 < s.nr.toNat := by
    rw [BitVec.toNat_ofNat]
    omega
  rw [← hround] at hk
  refine (congrArg (Option.map _) hk).trans ?_
  simp only [atPhase, encPhase, hnext, hle, Option.map_some]

theorem microStep_eFinal (hk : heldRoundKey s s.nr.toNat = some k) :
    microStep m (atPhase .eFinal r x s) =
      some (atPhase (afterBlock m .cStore) 0 (encFinal k x) s) :=
  congrArg (Option.map _) hk

theorem microStep_dInit (hpos : 0 < s.nr.toNat) (hk : heldRoundKey s s.nr.toNat = some k) :
    microStep m (atPhase .dInit r x s) =
      some (atPhase .dRound (s.nr.toNat - 1) (addRoundKey x k) s) := by
  have hnext : s.nr - 1 = BitVec.ofNat 4 (s.nr.toNat - 1) := by bv_omega
  refine (congrArg (Option.map _) hk).trans ?_
  simp only [atPhase, hnext, Option.map_some]

theorem microStep_dRound (hr : r + 1 < 16) (hk : heldRoundKey s (r + 1) = some k) :
    microStep m (atPhase .dRound (r + 1) x s) =
      some (atPhase (decPhase r) r (decRound k x) s) := by
  have hround : (BitVec.ofNat 4 (r + 1)).toNat = r + 1 := Nat.mod_eq_of_lt hr
  have hnext : BitVec.ofNat 4 (r + 1) - 1 = BitVec.ofNat 4 r := by bv_omega
  have hle : 1 ≤ (BitVec.ofNat 4 r).toNat ↔ 0 < r := by
    rw [BitVec.toNat_ofNat]
    omega
  rw [← hround] at hk
  refine (congrArg (Option.map _) hk).trans ?_
  simp only [atPhase, decPhase, hnext, hle, Option.map_some]

theorem microStep_dFinal (hk : heldRoundKey s 0 = some k) :
    microStep m (atPhase .dFinal r x s) =
      some (atPhase (afterBlock m .cStoreX) r (decFinal k x) s) :=
  congrArg (Option.map _) hk

end MicroStep

/-! ## The rounds, and a whole block -/

/-- So there are rounds between the first round key and the last. -/
theorem ten_le_rounds (v : Variant) : 10 ≤ v.rounds := by cases v <;> decide

section Block
variable (m : SeqMode) {s : State}

/-- From round `r` on, the `n` rounds before the final one. -/
theorem microSteps_encRounds {n r : Nat} {ks : List Block} (h : RoundKeys s (List.range' r n) ks)
    (hr : r + n = s.nr.toNat) (x : Block) :
    microSteps m n (atPhase (encPhase s r) r x s) =
      some (atPhase .eFinal s.nr.toNat (encRounds ks x) s) := by
  induction n generalizing r ks x with
  | zero =>
    cases h
    rw [← hr, encPhase, if_neg (by omega)]
    rfl
  | succ n ih =>
    rw [List.range'_succ] at h
    cases h with
    | cons hk hks =>
      have hlt : r < s.nr.toNat := by omega
      rw [encPhase, if_pos hlt, microSteps, microStep_eRound m x hlt hk, Option.bind_some,
        ih hks (by omega), encRounds]

/-- Down to round `r`, the `n` rounds above it. -/
theorem microSteps_decRounds {n r : Nat} {ks : List Block}
    (h : RoundKeys s (List.range' (r + 1) n) ks) (hr : r + n < 16) (x : Block) :
    microSteps m n (atPhase (decPhase (r + n)) (r + n) x s) =
      some (atPhase (decPhase r) r (decRounds ks x) s) := by
  induction n generalizing r ks with
  | zero =>
    cases h
    rfl
  | succ n ih =>
    rw [List.range'_succ] at h
    cases h with
    | cons hk hks =>
      rw [show r + (n + 1) = r + 1 + n by omega, microSteps_add, ih hks (by omega),
        Option.bind_some, microSteps_one, decPhase, if_pos r.succ_pos,
        microStep_dRound m _ (by omega) hk, decRounds]

variable {v : Variant} (h : heldVariant s = some v) (r : Nat) (x : Block)
include h

theorem heldRoundKey_nr : heldRoundKey s s.nr.toNat = some (scheduleIn v s.rk)[v.rounds] := by
  rw [((heldVariant_eq_some s v).1 h).2]
  exact heldRoundKey_of_le h le_rfl

/-- All of encryption but its final round. -/
theorem microSteps_eInit_eFinal :
    microSteps m v.rounds (atPhase .eInit r x s) =
      some (atPhase .eFinal s.nr.toNat
        (encRounds (middleKeys (scheduleIn v s.rk)) (addRoundKey x (scheduleIn v s.rk)[0])) s) := by
  have hnr := ((heldVariant_eq_some s v).1 h).2
  have hten := ten_le_rounds v
  have hround : encPhase s 1 = .eRound := if_pos (by omega)
  rw [microSteps_of_pos m (by omega), microStep_eInit m x (heldRoundKey_of_le h (Nat.zero_le _)),
    Option.bind_some, ← hround]
  exact microSteps_encRounds m (roundKeys_middleKeys h) (by omega) _

/-- All of decryption but its final round. -/
theorem microSteps_dInit_dFinal :
    microSteps m v.rounds (atPhase .dInit r x s) =
      some (atPhase .dFinal 0
        (decRounds (middleKeys (scheduleIn v s.rk))
          (addRoundKey x (scheduleIn v s.rk)[v.rounds])) s) := by
  have hnr := ((heldVariant_eq_some s v).1 h).2
  have hten := ten_le_rounds v
  have hround : decPhase (v.rounds - 1) = .dRound := if_pos (by omega)
  have hrun := microSteps_decRounds m (roundKeys_middleKeys h) (by have := v.rounds_le; omega)
  rw [Nat.zero_add, hround] at hrun
  rw [microSteps_of_pos m (by omega), microStep_dInit m x (by omega) (heldRoundKey_nr h),
    Option.bind_some, hnr]
  exact hrun _

/-- The phases from E_INIT on perform EncryptBlock in NR + 1 micro-steps (R172). -/
theorem microSteps_encryptBlock :
    microSteps m (v.rounds + 1) (atPhase .eInit r x s) =
      some (atPhase (afterBlock m .cStore) 0 (encryptBlock (scheduleIn v s.rk) x) s) := by
  rw [microSteps_add, microSteps_eInit_eFinal m h, Option.bind_some, microSteps_one,
    microStep_eFinal m _ (heldRoundKey_nr h), encryptBlock_eq]

/-- The phases from D_INIT on perform DecryptBlock in NR + 1 micro-steps (R172). -/
theorem microSteps_decryptBlock :
    microSteps m (v.rounds + 1) (atPhase .dInit r x s) =
      some (atPhase (afterBlock m .cStoreX) 0 (decryptBlock (scheduleIn v s.rk) x) s) := by
  rw [microSteps_add, microSteps_dInit_dFinal m h, Option.bind_some, microSteps_one,
    microStep_dFinal m _ (heldRoundKey_of_le h (Nat.zero_le _)), decryptBlock_eq]

end Block

/-- Settles O33: after NR micro-steps the sequencer stands in the final phase, so it was not IDLE
before. -/
theorem sequencerRunsOneBlock : Obligations.SequencerRunsOneBlock := by
  intro s v hrkv hnr
  have hv : heldVariant (startSequencer .idle s) = some v :=
    (heldVariant_eq_some s v).2 ⟨hrkv, hnr⟩
  refine ⟨⟨_, microSteps_encryptBlock .single hv 0 s.st, rfl, rfl⟩,
    ⟨_, microSteps_decryptBlock .single hv 0 s.st, rfl, rfl⟩, fun k hk => ?_⟩
  obtain ⟨t, ht, hbusy⟩ :=
    exists_microSteps_not_idle (microSteps_eInit_eFinal .single hv 0 s.st) nofun hk
  obtain ⟨u, hu, hbusy'⟩ :=
    exists_microSteps_not_idle (microSteps_dInit_dFinal .single hv 0 s.st) nofun hk
  exact ⟨t, u, ht, hbusy, hu, hbusy'⟩

end Sys2Proof.Proofs
end

section
/-! The block sequencer (`45_cbc_driver.md` R196). A turn loads a block, runs the block function and
stores the result, in NR + 3 micro-steps; it ends in the phase the next turn begins with, or IDLE
behind block n − 1. Both directions are turns of this kind, so the loop is one induction. -/

namespace Sys2Proof.Proofs

open Sys2Proof.Machine

/-- The sequencer stands in phase `p` at block `b`, between two blocks. -/
def atBlock (p : Phase) (b : Nat) (s : State) : State :=
  { s with hidden := { s.hidden with phase := p, round := 0#4, blockIx := BitVec.ofNat 28 b } }

/-- The phase at block `b` of a loop over `n` blocks that loads in phase `load`. -/
def blockPhase (load : Phase) (n b : Nat) : Phase := if b < n then load else .idle

/-- SAVE holds `x`, as it does behind C_SAVE (R189). -/
def withSave (x : Block) (s : State) : State := { s with hidden := { s.hidden with save := x } }

/-- BI has room for a block index (R196). -/
theorem toNat_blockIx {b : Nat} (hb : b < 2 ^ 28) : (BitVec.ofNat 28 b).toNat = b :=
  Nat.mod_eq_of_lt hb

theorem blockIx_succ (b : Nat) : BitVec.ofNat 28 b + 1 = BitVec.ofNat 28 (b + 1) :=
  BitVec.ofNat_add_ofNat b 1

theorem startSequencer_eq (p : Phase) (s : State) : startSequencer p s = atBlock p 0 s := rfl

/-! ## One turn -/

section Turn
variable {m : SeqMode} {b n : Nat} {s : State} {v : Variant}

theorem microStep_cLoadX (hb : b < 2 ^ 28) :
    microStep m (atBlock .cLoadX b s) =
      some (atPhase .eInit 0 (xorBlock (s.buf.readBlock (16 * b)) s.hidden.cv)
        (atBlock .eInit b s)) := by
  simp only [microStep, atBlock, atPhase, toNat_blockIx hb]

theorem microStep_cSave (hb : b < 2 ^ 28) :
    microStep m (atBlock .cSave b s) =
      some (atPhase .dInit 0 (s.buf.readBlock (16 * b))
        (atBlock .dInit b (withSave (s.buf.readBlock (16 * b)) s))) := by
  simp only [microStep, atBlock, atPhase, withSave, toNat_blockIx hb]

/-- BI counts to `n` without wrapping round, so the loop goes on exactly below `n` (R196). -/
theorem afterStore_chain (load : Phase) (hb : b < n) (hn : n < 2 ^ 28) :
    afterStore (.chain n) (BitVec.ofNat 28 (b + 1)) load = blockPhase load n (b + 1) := by
  rw [afterStore, toNat_blockIx (by omega), blockPhase]

theorem microStep_cStore (x : Block) (p : Phase) (hb : b < n) (hn : n < 2 ^ 28) :
    microStep (.chain n) (atPhase .cStore 0 x (atBlock p b s)) =
      some (atBlock (blockPhase .cLoadX n (b + 1)) (b + 1)
        { s with
          st := x
          buf := s.buf.writeBlock (16 * b) x
          hidden := { s.hidden with cv := x } }) := by
  simp only [microStep, atBlock, atPhase, toNat_blockIx (hb.trans hn), blockIx_succ,
    afterStore_chain _ hb hn]

theorem microStep_cStoreX (x y : Block) (p : Phase) (hb : b < n) (hn : n < 2 ^ 28) :
    microStep (.chain n) (atPhase .cStoreX 0 x (atBlock p b (withSave y s))) =
      some (atBlock (blockPhase .cSave n (b + 1)) (b + 1)
        { s with
          st := x
          buf := s.buf.writeBlock (16 * b) (xorBlock x s.hidden.cv)
          hidden := { s.hidden with save := y, cv := y } }) := by
  simp only [microStep, atBlock, atPhase, withSave, toNat_blockIx (hb.trans hn), blockIx_succ,
    afterStore_chain _ hb hn]

/-- The block function runs on ST alone, whatever SAVE holds. -/
theorem microSteps_decryptBlock_withSave (hv : heldVariant s = some v) (x y : Block) :
    microSteps (.chain n) (v.rounds + 1) (atPhase .dInit 0 x (atBlock .dInit b (withSave y s))) =
      some (atPhase .cStoreX 0 (decryptBlock (scheduleIn v s.rk) x)
        (atBlock .dInit b (withSave y s))) :=
  microSteps_decryptBlock (.chain n) (s := atBlock .dInit b (withSave y s)) hv 0 x

theorem microSteps_load_run_store {k : Nat} {t u w : State} (hload : microStep m s = some t)
    (hrun : microSteps m k t = some u) (hstore : microStep m u = some w) :
    microSteps m (k + 2) s = some w := by
  rw [microSteps, hload, Option.bind_some, microSteps_add, hrun, Option.bind_some, microSteps_one,
    hstore]

variable (hb : b < n) (hn : n < 2 ^ 28) (hv : heldVariant s = some v)
include hb hn hv

theorem microSteps_cbcEncBlock :
    microSteps (.chain n) (v.rounds + 3) (atBlock .cLoadX b s) =
      some (atBlock (blockPhase .cLoadX n (b + 1)) (b + 1) (cbcEncBlock v b s)) :=
  microSteps_load_run_store (microStep_cLoadX (hb.trans hn))
    (microSteps_encryptBlock (.chain n) (s := atBlock .eInit b s) hv 0 _)
    (microStep_cStore (encipheredBlock v b s) .eInit hb hn)

theorem microSteps_cbcDecBlock :
    microSteps (.chain n) (v.rounds + 3) (atBlock .cSave b s) =
      some (atBlock (blockPhase .cSave n (b + 1)) (b + 1) (cbcDecBlock v b s)) :=
  microSteps_load_run_store (microStep_cSave (hb.trans hn))
    (microSteps_decryptBlock_withSave hv _ _)
    (microStep_cStoreX (decipheredBlock v b s) _ .dInit hb hn)

end Turn

/-! ## The loop -/

section Loop
variable {n k : Nat} {load : Phase} {v : Variant} {turn : Nat → State → State}
  {loop : Nat → Nat → State → State}

/-- Where `k` micro-steps make one turn, `j * k` make the last `j` turns. -/
theorem microSteps_loop (hzero : ∀ b s, loop 0 b s = s)
    (hsucc : ∀ j b s, loop (j + 1) b s = loop j (b + 1) (turn b s))
    (hheld : ∀ b s, heldVariant (turn b s) = heldVariant s)
    (hturn : ∀ b s, b < n → heldVariant s = some v →
      microSteps (.chain n) k (atBlock load b s) =
        some (atBlock (blockPhase load n (b + 1)) (b + 1) (turn b s)))
    {j b : Nat} (hj : b + j = n) {s : State} (hv : heldVariant s = some v) :
    microSteps (.chain n) (j * k) (atBlock (blockPhase load n b) b s) =
      some (atBlock .idle n (loop j b s)) := by
  induction j generalizing b s with
  | zero =>
    rw [Nat.zero_mul, microSteps, hzero, blockPhase, if_neg (by omega), ← hj, Nat.add_zero]
  | succ j ih =>
    have hb : b < n := by omega
    rw [Nat.succ_mul, Nat.add_comm, microSteps_add, blockPhase, if_pos hb, hturn b s hb hv,
      Option.bind_some, ih (by omega) ((hheld b s).trans hv), hsucc]

end Loop

section Blocks
variable {n : Nat} {s : State} {v : Variant} (hpos : 1 ≤ n) (hn : n < 2 ^ 28)
  (hv : heldVariant s = some v)
include hpos hn hv

theorem microSteps_cbcEncBlocks :
    microSteps (.chain n) (n * (v.rounds + 3)) (startSequencer .cLoadX s) =
      some (atBlock .idle n (cbcEncBlocks v n 0 s)) := by
  have hstart : blockPhase .cLoadX n 0 = .cLoadX := if_pos hpos
  rw [startSequencer_eq, ← hstart]
  exact microSteps_loop (turn := cbcEncBlock v) (fun _ _ => rfl) (fun _ _ _ => rfl) (fun _ _ => rfl)
    (fun _ _ hb => microSteps_cbcEncBlock hb hn) n.zero_add hv

theorem microSteps_cbcDecBlocks :
    microSteps (.chain n) (n * (v.rounds + 3)) (startSequencer .cSave s) =
      some (atBlock .idle n (cbcDecBlocks v n 0 s)) := by
  have hstart : blockPhase .cSave n 0 = .cSave := if_pos hpos
  rw [startSequencer_eq, ← hstart]
  exact microSteps_loop (turn := cbcDecBlock v) (fun _ _ => rfl) (fun _ _ _ => rfl) (fun _ _ => rfl)
    (fun _ _ hb => microSteps_cbcDecBlock hb hn) n.zero_add hv

end Blocks

/-- Settles O34: the sequencer ends in the state of the loop, IDLE at block `n`. -/
theorem sequencerRunsTheBlockLoop : Obligations.SequencerRunsTheBlockLoop := by
  intro s v n hrkv hnr hpos hn
  have hv : heldVariant s = some v := (heldVariant_eq_some s v).2 ⟨hrkv, hnr⟩
  have hix := toNat_blockIx hn
  exact ⟨⟨_, microSteps_cbcEncBlocks hpos hn hv, rfl, rfl, rfl, rfl, hix⟩,
    ⟨_, microSteps_cbcDecBlocks hpos hn hv, rfl, rfl, rfl, rfl, rfl, hix⟩⟩

end Sys2Proof.Proofs
end

section
/-! PAD and UNPAD (`45_cbc_driver.md` R185, R186, R192, R193): one equation for each way a command
can end, and the padded message byte by byte. -/

namespace Sys2Proof.Proofs

open Sys2Proof.Machine Sys2Proof.Claims

/-! ## The padded message -/

theorem paddedLen_eq (s : State) : paddedLen s = lenOf s + padLen (lenOf s) := rfl

theorem paddedLen_mod (s : State) : paddedLen s % 16 = 0 := (padLen_bounds (lenOf s)).2.2

/-- There are padding bytes, so the last byte of the padded message is one of them (R185). -/
theorem lenOf_lt_paddedLen (s : State) : lenOf s < paddedLen s :=
  Nat.lt_add_of_pos_right (padLen_bounds (lenOf s)).1

theorem toNat_ofNat_of_le_bufCap {n : Nat} (h : n ≤ Config.params.bufCap) :
    (BitVec.ofNat 32 n).toNat = n :=
  Nat.mod_eq_of_lt (Config.lt_of_le_bufCap h)

theorem ofNat_lenOf (s : State) : BitVec.ofNat 32 (lenOf s) = s.len := by
  rw [lenOf, BitVec.ofNat_toNat, BitVec.setWidth_eq]

theorem toNat_padByte (n : Nat) : (BitVec.ofNat 8 (padLen n)).toNat = padLen n := by
  have h16 := (padLen_bounds n).2.1
  exact Nat.mod_eq_of_lt (by omega)

theorem not_padByteBad_padByte (n : Nat) : padByteBad (BitVec.ofNat 8 (padLen n)) = false := by
  have hpad := padLen_bounds n
  rw [← Bool.not_eq_true, padByteBad_iff, toNat_padByte]
  omega

theorem paddedByte_of_lt {s : State} {a : Nat} (h : a < lenOf s) :
    paddedByte s a = s.buf.read a := if_pos h

theorem paddedByte_of_le {s : State} {a : Nat} (h : lenOf s ≤ a) :
    paddedByte s a = BitVec.ofNat 8 (padLen (lenOf s)) := if_neg (Nat.not_lt.2 h)

/-- The last byte of the padded message is the pad length (R186). -/
theorem paddedByte_last (s : State) :
    paddedByte s (paddedLen s - 1) = BitVec.ofNat 8 (padLen (lenOf s)) :=
  paddedByte_of_le (Nat.le_sub_one_of_lt (lenOf_lt_paddedLen s))

/-- The buffer behind PAD's store holds the padded message, and beyond it what it held before. -/
theorem read_writePad_eq_paddedByte {s : State} (hwf : s.buf.wf) {a : Nat} (ha : a < paddedLen s) :
    (writePad s).buf.read a = paddedByte s a := by
  have hlt : a < lenOf s + padLen (lenOf s) := ha
  rw [read_writePad hwf]
  by_cases hmsg : a < lenOf s
  · rw [if_neg (by omega), paddedByte_of_lt hmsg]
  · rw [if_pos ⟨Nat.le_of_not_lt hmsg, hlt⟩, paddedByte_of_le (Nat.le_of_not_lt hmsg)]

/-! ## The ways the two commands end -/

/-- The state PAD completes in. -/
def padded (s : State) : State := succeed { writePad s with len := BitVec.ofNat 32 (paddedLen s) }

theorem lenOf_padded {s : State} (h : paddedLen s ≤ Config.params.bufCap) :
    lenOf (padded s) = paddedLen s := toNat_ofNat_of_le_bufCap h

theorem exec_pad_of_fits {s : State} (h : paddedLen s ≤ Config.params.bufCap) :
    exec .pad s = .next (padded s) := congrArg _ (if_neg (Nat.not_lt.2 h))

theorem exec_pad_of_overflow {s : State} (h : Config.params.bufCap < paddedLen s) :
    exec .pad s = .next (raiseError .primitive (.keyMaterialUnavailable causeCapacity) s) :=
  congrArg _ (if_pos h)

theorem exec_unpad_of_overflow {s : State} (h : Config.params.bufCap < lenOf s) :
    exec .unpad s = .next (raiseError .primitive (.keyMaterialUnavailable causeCapacity) s) :=
  congrArg _ (if_pos h)

section Unpad
variable {s : State} (hcap : lenOf s ≤ Config.params.bufCap)
include hcap

theorem exec_unpad_of_bad_length (h : lenOf s = 0 ∨ lenOf s % 16 ≠ 0) :
    exec .unpad s = .next (raiseError .primitive .invalidCiphertextLength s) := by
  rw [exec, execUnpad, unpadCommand, if_neg (Nat.not_lt.2 hcap), if_pos ((cipherLenBad_iff _).2 h)]

variable (hpos : lenOf s ≠ 0) (hmod : lenOf s % 16 = 0)
include hpos hmod

theorem exec_unpad_of_good_length :
    exec .unpad s = .next
      (if padByteBad (s.buf.read (lenOf s - 1)) then raiseError .primitive .invalidPadding s
      else succeed { s with
        len := BitVec.ofNat 32 (lenOf s - (s.buf.read (lenOf s - 1)).toNat) }) := by
  have hlen : ¬cipherLenBad (lenOf s) = true := by
    rw [cipherLenBad_iff]
    omega
  rw [exec, execUnpad, unpadCommand, if_neg (Nat.not_lt.2 hcap), if_neg hlen]

theorem exec_unpad_of_bad_pad (h : padByteBad (s.buf.read (lenOf s - 1)) = true) :
    exec .unpad s = .next (raiseError .primitive .invalidPadding s) := by
  rw [exec_unpad_of_good_length hcap hpos hmod, if_pos h]

theorem exec_unpad_of_good_pad (h : padByteBad (s.buf.read (lenOf s - 1)) = false) :
    exec .unpad s = .next (succeed { s with
      len := BitVec.ofNat 32 (lenOf s - (s.buf.read (lenOf s - 1)).toNat) }) := by
  rw [exec_unpad_of_good_length hcap hpos hmod, if_neg (Bool.not_eq_true _ ▸ h)]

end Unpad

/-! ## The statements -/

/-- Settles O36: byte by byte from what the store writes. -/
theorem padAppendsThePadBytes : Obligations.PadAppendsThePadBytes := by
  refine ⟨rfl, fun s hwf hfits => ?_, fun s hover hidle => ?_⟩
  · have hlen := lenOf_padded hfits
    refine ⟨_, exec_pad_of_fits hfits, rfl, hlen, ?_, fun a hle hlt => ?_, fun a hout => ?_⟩
    · exact (congrArg (· % 16) hlen).trans (paddedLen_mod s)
    · have hread := (read_writePad_eq_paddedByte hwf hlt).trans (paddedByte_of_le hle)
      exact (congrArg BitVec.toNat hread).trans (toNat_padByte _)
    · refine (read_writePad hwf a).trans (if_neg fun ⟨hle, hlt⟩ => ?_)
      exact hout.elim (Nat.not_lt.2 hle) (Nat.not_le.2 hlt)
  · rw [exec_pad_of_overflow hover, raiseError_primitive_idle _ hidle]
    rfl

/-- Settles O37: one way to end for each premise. -/
theorem unpadRemovesThePadLength : Obligations.UnpadRemovesThePadLength := by
  refine ⟨rfl, fun s hidle => ⟨fun hover => ?_, fun hcap hbad => ?_, fun hcap hpos hmod hbad => ?_,
    fun hcap hpos hmod hone h16 => ?_⟩⟩
  · rw [exec_unpad_of_overflow hover, raiseError_primitive_idle _ hidle]
    rfl
  · rw [exec_unpad_of_bad_length hcap hbad, raiseError_primitive_idle _ hidle]
    rfl
  · rw [exec_unpad_of_bad_pad hcap hpos hmod ((padByteBad_iff _).2 hbad),
      raiseError_primitive_idle _ hidle]
    rfl
  · have hgood : padByteBad (s.buf.read (lenOf s - 1)) = false := by
      rw [← Bool.not_eq_true, padByteBad_iff]
      exact not_or.2 ⟨Nat.ne_of_gt hone, Nat.not_lt.2 h16⟩
    exact ⟨_, exec_unpad_of_good_pad hcap hpos hmod hgood, rfl,
      toNat_ofNat_of_le_bufCap ((Nat.sub_le _ _).trans hcap)⟩

/-- Settles O38: the last byte PAD leaves is the pad length. -/
theorem unpadInvertsPad : Obligations.UnpadInvertsPad := by
  intro s hwf _ hfits
  have hlt := lenOf_lt_paddedLen s
  have hlen := lenOf_padded hfits
  have hlast : (padded s).buf.read (lenOf (padded s) - 1) =
      BitVec.ofNat 8 (padLen (lenOf s)) := by
    rw [hlen]
    exact (read_writePad_eq_paddedByte hwf (by omega)).trans (paddedByte_last s)
  have hunpad : exec .unpad (padded s) = _ :=
    exec_unpad_of_good_pad (hlen.le.trans hfits) (by omega) (hlen ▸ paddedLen_mod s)
      (hlast ▸ not_padByteBad_padByte _)
  refine ⟨_, _, exec_pad_of_fits hfits, hunpad, rfl, ?_, fun a ha => ?_⟩
  · show BitVec.ofNat 32 _ = s.len
    rw [hlast, toNat_padByte, hlen, paddedLen_eq, Nat.add_sub_cancel]
    exact ofNat_lenOf s
  · exact (read_writePad_eq_paddedByte hwf (ha.trans hlt)).trans (paddedByte_of_lt ha)

end Sys2Proof.Proofs
end

section
/-! Cipher-block chaining (`45_cbc_driver.md` R187, R188), of bytes given by their indices: the
padded blocks and the IV determine the ciphertext, and each padded block comes back out of it. -/

namespace Sys2Proof.Proofs

open Sys2Proof.Machine Sys2Proof.Claims

@[simp] theorem getElem_blockOf (f : Nat → Byte) (b : Nat) {i : Nat} (h : i < 16) :
    (blockOf f b)[i] = f (16 * b + i) := by
  rw [blockOf, Vector.getElem_ofFn]

theorem blockOf_congr {f g : Nat → Byte} {b : Nat} (h : ∀ a, a < 16 * (b + 1) → f a = g a) :
    blockOf f b = blockOf g b := by
  ext i hi
  rw [getElem_blockOf f b hi, getElem_blockOf g b hi, h _ (by omega)]

/-- Byte `a` stands in block `a / 16`, at place `a % 16`. -/
theorem byteOf_blockOf (f : Nat → Byte) (a : Nat) : byteOf (blockOf f (a / 16)) (a % 16) = f a := by
  rw [byteOf_eq_getElem _ (Nat.mod_lt a (by decide)), getElem_blockOf, Nat.div_add_mod]

theorem eq_of_blockOf_eq {f g : Nat → Byte} {n : Nat} (h : ∀ b, b < n → blockOf f b = blockOf g b)
    {a : Nat} (ha : a < 16 * n) : f a = g a := by
  rw [← byteOf_blockOf f, ← byteOf_blockOf g, h (a / 16) (by omega)]

theorem chainBefore_zero (iv : Block) (f : Nat → Byte) : chainBefore iv f 0 = iv := if_pos rfl

theorem chainBefore_succ (iv : Block) (f : Nat → Byte) (b : Nat) :
    chainBefore iv f (b + 1) = blockOf f b := if_neg b.succ_ne_zero

theorem chainBefore_congr {iv : Block} {f g : Nat → Byte} {b : Nat}
    (h : ∀ j, j < b → blockOf f j = blockOf g j) : chainBefore iv f b = chainBefore iv g b := by
  cases b with
  | zero => rw [chainBefore_zero, chainBefore_zero]
  | succ b => rw [chainBefore_succ, chainBefore_succ, h b b.lt_succ_self]

/-- The first `n` blocks of `c` are those of `p`, chained from `iv` under the block function `E`. -/
def Chained (E : Block → Block) (iv : Block) (p : Nat → Byte) (n : Nat) (c : Nat → Byte) : Prop :=
  ∀ b, b < n → blockOf c b = E (xorBlock (blockOf p b) (chainBefore iv c b))

section Chained
variable {E : Block → Block} {iv : Block} {p c d : Nat → Byte} {n : Nat}

/-- Each block is determined by the ones before it. -/
theorem Chained.unique (hc : Chained E iv p n c) (hd : Chained E iv p n d) :
    ∀ b, b < n → blockOf c b = blockOf d b := by
  intro b
  induction b using Nat.strong_induction_on with
  | _ b ih =>
    intro hb
    have hchain : chainBefore iv c b = chainBefore iv d b :=
      chainBefore_congr fun j hj => ih j hj (hj.trans hb)
    rw [hc b hb, hd b hb, hchain]

/-- A left inverse of `E` takes the chaining back (R188). -/
theorem Chained.unchain (hc : Chained E iv p n c) {D : Block → Block} (hD : ∀ x, D (E x) = x)
    {b : Nat} (hb : b < n) : xorBlock (D (blockOf c b)) (chainBefore iv c b) = blockOf p b := by
  rw [hc b hb, hD, xorBlock_xorBlock]

end Chained

end Sys2Proof.Proofs
end

section
/-! CBCENC (`45_cbc_driver.md` R187, R194): one equation for each way it can end, and the ciphertext
as the chained blocks of the padded message. -/

namespace Sys2Proof.Proofs

open Sys2Proof.Machine Sys2Proof.Claims

theorem keyVariant_eq_variantOf {s : State} (h : KeyOk s) : keyVariant s = some (variantOf s) := by
  rw [keyVariant_eq_some, variantOf]
  rcases h with h | h | h <;> simp [h, Variant.keyLength]

theorem encryptPadded_chained {s : State} (hwf : s.buf.wf) :
    Chained (encryptBlock (scheduleOf s)) s.iv (paddedByte s) (paddedLen s / 16)
      (encryptPadded (variantOf s) s).buf.read := by
  intro b hb
  have hblock := readBlock_cbcEncBlocks (v := variantOf s) (paddedLen s / 16) 0
    (s := chainFromIv (writePad (expandState s))) (wf_writePad (s := expandState s) hwf) b hb
  have hpad : blockOf (paddedByte s) b = blockOf (writePad s).buf.read b :=
    blockOf_congr fun a ha => (read_writePad_eq_paddedByte hwf (by omega)).symm
  rw [Nat.zero_add] at hblock
  rw [hpad]
  exact hblock

/-! ## The ways it ends -/

/-- The state CBCENC completes in. -/
def encrypted (s : State) : State :=
  { wiped s with
    buf := (encryptPadded (variantOf s) s).buf
    len := BitVec.ofNat 32 (paddedLen s)
    err := 0
    sub := 0 }

theorem completeTop_cbcEncrypt (s : State) :
    completeTop (cbcEncrypt (variantOf s) s) = encrypted s := by
  rw [completeTop_eq, cbcEncrypt_frame]
  rfl

theorem exec_cbcenc_of_bad_key {s : State} (h : ¬KeyOk s) :
    exec .cbcenc s = .next { wiped s with err := 1, sub := 1 } := by
  rw [exec, execCbcenc, cbcencCommand, (keyVariant_eq_none s).2 h]
  rfl

section Cbcenc
variable {s : State} (hkey : KeyOk s)
include hkey

theorem exec_cbcenc_of_bad_iv (h : s.ivlen.toNat ≠ 16) :
    exec .cbcenc s = .next { wiped s with err := 1, sub := 2 } := by
  have hiv : ivLenLegal s = false := by rwa [← Bool.not_eq_true, ivLenLegal_iff]
  rw [exec, execCbcenc, cbcencCommand, keyVariant_eq_variantOf hkey, hiv]
  rfl

variable (hiv : s.ivlen.toNat = 16)
include hiv

theorem exec_cbcenc_of_overflow (h : Config.params.bufCap < paddedLen s) :
    exec .cbcenc s = .next { wiped s with err := 1, sub := 4 } := by
  rw [exec, execCbcenc, cbcencCommand, keyVariant_eq_variantOf hkey, (ivLenLegal_iff s).2 hiv]
  exact congrArg _ (if_pos h)

theorem exec_cbcenc_of_fits (h : paddedLen s ≤ Config.params.bufCap) :
    exec .cbcenc s = .next (encrypted s) := by
  rw [exec, execCbcenc, cbcencCommand, keyVariant_eq_variantOf hkey, (ivLenLegal_iff s).2 hiv,
    ← completeTop_cbcEncrypt]
  exact congrArg _ (if_neg (Nat.not_lt.2 h))

end Cbcenc

/-! ## The statement -/

/-- Settles O39: one way to end for each premise, and the bytes from the encrypting loop. -/
theorem cbcencChainsTheBlocks : Obligations.CbcencChainsTheBlocks := by
  refine ⟨rfl, fun s => ⟨exec_cbcenc_of_bad_key, exec_cbcenc_of_bad_iv, exec_cbcenc_of_overflow⟩,
    fun s hwf hkey hiv hfits => ?_⟩
  exact ⟨_, exec_cbcenc_of_fits hkey hiv hfits, rfl, toNat_ofNat_of_le_bufCap hfits,
    encryptPadded_chained hwf, fun a => read_encryptPadded_of_le hwf⟩

end Sys2Proof.Proofs
end

section
/-! CBCDEC (`45_cbc_driver.md` R188, R195): one equation for each way `CbcDecryptInPlace` and CBCDEC
can end, and the plaintext as the blocks recovered from the ciphertext of before. -/

namespace Sys2Proof.Proofs

open Sys2Proof.Machine Sys2Proof.Claims

/-! ## The plaintext -/

section Plaintext
variable {s : State} (hwf : s.buf.wf) {n : Nat}
include hwf

theorem blockOf_cbcDecrypt {b : Nat} (hb : b < n / 16) :
    blockOf (cbcDecrypt (variantOf s) n s).buf.read b = recoveredBlock s s.iv b := by
  have hblock := readBlock_cbcDecBlocks (v := variantOf s) (n / 16) 0
    (s := chainFromIv (expandState s)) hwf b hb
  rw [Nat.zero_add] at hblock
  exact hblock

variable (hmod : n % 16 = 0)
include hmod

theorem read_cbcDecrypt_eq_recoveredByte {a : Nat} (ha : a < n) :
    (cbcDecrypt (variantOf s) n s).buf.read a = recoveredByte s s.iv a := by
  rw [← byteOf_blockOf (cbcDecrypt (variantOf s) n s).buf.read, blockOf_cbcDecrypt hwf (by omega),
    recoveredByte]

variable (hpos : n ≠ 0)
include hpos

theorem read_cbcDecrypt_last :
    (cbcDecrypt (variantOf s) n s).buf.read (n - 1) = recoveredByte s s.iv (n - 1) :=
  read_cbcDecrypt_eq_recoveredByte hwf hmod (Nat.sub_one_lt hpos)

end Plaintext

/-! ## The ways `CbcDecryptInPlace` ends -/

/-- The state with `n` bytes decrypted and the pad length taken off. -/
def decrypted (n : Nat) (s : State) : State :=
  { wiped s with
    buf := (cbcDecrypt (variantOf s) n s).buf
    len := BitVec.ofNat 32 (n - (recoveredByte s s.iv (n - 1)).toNat)
    err := 0
    sub := 0 }

/-- The state behind InvalidPadding: `n` bytes and LEN are cleared (R256). -/
def paddingRefused (n : Nat) (s : State) : State :=
  { wiped s with
    buf := (eraseDecrypted n (cbcDecrypt (variantOf s) n s)).buf
    len := 0
    err := 3
    sub := 0 }

theorem cbcDecryptInPlace_of_bad_length {n : Nat} (s : State) (h : n = 0 ∨ n % 16 ≠ 0) :
    cbcDecryptInPlace (variantOf s) n s = { wiped s with err := 2, sub := 0 } :=
  if_pos ((cipherLenBad_iff n).2 h)

section Outcome
variable {s : State} (hwf : s.buf.wf) {n : Nat} (hpos : n ≠ 0) (hmod : n % 16 = 0)
include hwf hpos hmod

theorem cbcDecryptInPlace_of_good_pad (h : ¬PadBad s s.iv n) :
    cbcDecryptInPlace (variantOf s) n s = decrypted n s := by
  have hlast := read_cbcDecrypt_last hwf hmod hpos
  rcases cbcDecryptInPlace_cases (v := variantOf s) n s with ⟨hlen, -⟩ | ⟨-, hpad, -⟩ | ⟨-, -, hend⟩
  · exact absurd ((cipherLenBad_iff n).1 hlen) (by omega)
  · rw [hlast, padByteBad_iff] at hpad
    exact absurd hpad h
  · rw [hend, hlast]
    rfl

theorem cbcDecryptInPlace_of_bad_pad (h : PadBad s s.iv n) :
    cbcDecryptInPlace (variantOf s) n s = paddingRefused n s := by
  have hlast := read_cbcDecrypt_last hwf hmod hpos
  rcases cbcDecryptInPlace_cases (v := variantOf s) n s with ⟨hlen, -⟩ | ⟨-, -, hend⟩ | ⟨-, hpad, -⟩
  · exact absurd ((cipherLenBad_iff n).1 hlen) (by omega)
  · exact hend
  · rw [hlast, ← Bool.not_eq_true, padByteBad_iff] at hpad
    exact absurd h hpad

end Outcome

theorem read_paddingRefused {s : State} (hwf : s.buf.wf) (n a : Nat) :
    (paddingRefused n s).buf.read a = if a < n then 0 else s.buf.read a := by
  refine (read_eraseDecrypted (wf_cbcDecrypt (v := variantOf s) n hwf) n a).trans ?_
  split
  · rfl
  · exact read_cbcDecrypt_of_le hwf (Nat.le_of_not_lt ‹_›)

/-! ## The ways CBCDEC ends -/

theorem exec_cbcdec_of_bad_key {s : State} (h : ¬KeyOk s) :
    exec .cbcdec s = .next { wiped s with err := 1, sub := 1 } := by
  rw [exec, execCbcdec, cbcdecCommand, (keyVariant_eq_none s).2 h]
  rfl

section Cbcdec
variable {s : State} (hkey : KeyOk s)
include hkey

theorem exec_cbcdec_of_bad_iv (h : s.ivlen.toNat ≠ 16) :
    exec .cbcdec s = .next { wiped s with err := 1, sub := 2 } := by
  have hiv : ivLenLegal s = false := by rwa [← Bool.not_eq_true, ivLenLegal_iff]
  rw [exec, execCbcdec, cbcdecCommand, keyVariant_eq_variantOf hkey, hiv]
  rfl

variable (hiv : s.ivlen.toNat = 16)
include hiv

theorem exec_cbcdec_of_overflow (h : Config.params.bufCap < lenOf s) :
    exec .cbcdec s = .next { wiped s with err := 1, sub := 4 } := by
  rw [exec, execCbcdec, cbcdecCommand, keyVariant_eq_variantOf hkey, (ivLenLegal_iff s).2 hiv]
  exact congrArg _ (if_pos h)

theorem exec_cbcdec_of_fits (h : lenOf s ≤ Config.params.bufCap) {t : State}
    (ht : cbcDecryptInPlace (variantOf s) (lenOf s) s = t) : exec .cbcdec s = .next t := by
  rw [exec, execCbcdec, cbcdecCommand, keyVariant_eq_variantOf hkey, (ivLenLegal_iff s).2 hiv, ← ht]
  exact congrArg _ (if_neg (Nat.not_lt.2 h))

end Cbcdec

/-! ## The statement -/

/-- Settles O40: one way to end for each premise, and the bytes from the decrypting loop. -/
theorem cbcdecUnchainsTheBlocks : Obligations.CbcdecUnchainsTheBlocks := by
  refine ⟨rfl, fun s => ⟨exec_cbcdec_of_bad_key, exec_cbcdec_of_bad_iv, exec_cbcdec_of_overflow,
    fun hkey hiv hcap hbad => ?_⟩, fun s hwf hkey hiv hcap hpos hmod => ⟨fun hgood => ?_,
    fun hbad => ?_⟩⟩
  · exact exec_cbcdec_of_fits hkey hiv hcap (cbcDecryptInPlace_of_bad_length s hbad)
  · exact ⟨_, exec_cbcdec_of_fits hkey hiv hcap
        (cbcDecryptInPlace_of_good_pad hwf hpos hmod hgood), rfl,
      toNat_ofNat_of_le_bufCap ((Nat.sub_le _ _).trans hcap), fun b => blockOf_cbcDecrypt hwf,
      fun a => read_cbcDecrypt_of_le hwf⟩
  · have hread := read_paddingRefused hwf (lenOf s)
    exact ⟨_, exec_cbcdec_of_fits hkey hiv hcap (cbcDecryptInPlace_of_bad_pad hwf hpos hmod hbad),
      rfl, fun a ha => (hread a).trans (if_pos ha),
      fun a ha => (hread a).trans (if_neg (Nat.not_lt.2 ha))⟩

end Sys2Proof.Proofs
end

section
/-! The round trip of CBC, and what its ciphertext depends on (`45_cbc_driver.md` R191). -/

namespace Sys2Proof.Proofs

open Sys2Proof.Machine Sys2Proof.Claims

/-! ## CBCDEC after CBCENC -/

/-- The state CBCENC completes in, with the key loaded again. -/
def rekeyed (s : State) : State := { encrypted s with key := s.key, klen := s.klen }

section RoundTrip
variable {s : State} (hwf : s.buf.wf)
include hwf

theorem recoveredBlock_rekeyed {b : Nat} (hb : b < paddedLen s / 16) :
    recoveredBlock (rekeyed s) (rekeyed s).iv b = blockOf (paddedByte s) b :=
  (encryptPadded_chained hwf).unchain (decryptBlock_encryptBlock (scheduleOf s)) hb

theorem recoveredByte_rekeyed {a : Nat} (ha : a < paddedLen s) :
    recoveredByte (rekeyed s) (rekeyed s).iv a = paddedByte s a := by
  have hmod := paddedLen_mod s
  rw [recoveredByte, recoveredBlock_rekeyed hwf (by omega), byteOf_blockOf]

theorem recoveredByte_rekeyed_last :
    recoveredByte (rekeyed s) (rekeyed s).iv (paddedLen s - 1) =
      BitVec.ofNat 8 (padLen (lenOf s)) := by
  have hlt := lenOf_lt_paddedLen s
  rw [recoveredByte_rekeyed hwf (by omega), paddedByte_last]

theorem not_padBad_rekeyed : ¬PadBad (rekeyed s) (rekeyed s).iv (paddedLen s) := by
  rw [PadBad, recoveredByte_rekeyed_last hwf, ← padByteBad_iff, not_padByteBad_padByte]
  exact Bool.false_ne_true

theorem cbcDecryptInPlace_rekeyed :
    cbcDecryptInPlace (variantOf (rekeyed s)) (paddedLen s) (rekeyed s) =
      decrypted (paddedLen s) (rekeyed s) :=
  cbcDecryptInPlace_of_good_pad (s := rekeyed s) (wf_encryptPadded hwf)
    (Nat.ne_zero_of_lt (lenOf_lt_paddedLen s)) (paddedLen_mod s) (not_padBad_rekeyed hwf)

theorem len_decrypted_rekeyed : (decrypted (paddedLen s) (rekeyed s)).len = s.len := by
  rw [decrypted, recoveredByte_rekeyed_last hwf, toNat_padByte, paddedLen_eq, Nat.add_sub_cancel]
  exact ofNat_lenOf s

theorem read_decrypted_rekeyed {a : Nat} (ha : a < lenOf s) :
    (decrypted (paddedLen s) (rekeyed s)).buf.read a = s.buf.read a := by
  have hlt := ha.trans (lenOf_lt_paddedLen s)
  calc (decrypted (paddedLen s) (rekeyed s)).buf.read a
      = recoveredByte (rekeyed s) (rekeyed s).iv a :=
        read_cbcDecrypt_eq_recoveredByte (s := rekeyed s) (wf_encryptPadded hwf) (paddedLen_mod s) hlt
    _ = paddedByte s a := recoveredByte_rekeyed hwf hlt
    _ = s.buf.read a := paddedByte_of_lt ha

end RoundTrip

/-! ## Two states with the same message, key and IV -/

theorem encryptBlock_scheduleOf_congr {s t : State} (hklen : s.klen = t.klen)
    (hkey : keyBytes s = keyBytes t) :
    encryptBlock (scheduleOf s) = encryptBlock (scheduleOf t) := by
  have hvariant : variantOf s = variantOf t := by rw [variantOf, hklen, variantOf]
  rw [scheduleOf, scheduleOf, hkey, hvariant]

section SameMessage
variable {s t : State} (h : SameMessage s t)
include h

theorem paddedLen_congr : paddedLen s = paddedLen t := by
  obtain ⟨hlen, -⟩ := h
  rw [paddedLen, hlen, paddedLen]

theorem paddedByte_congr : paddedByte s = paddedByte t := by
  obtain ⟨hlen, hread, -⟩ := h
  funext a
  rw [paddedByte, paddedByte, ← hlen]
  exact ite_congr rfl (hread a) fun _ => rfl

theorem read_encryptPadded_congr (hs : s.buf.wf) (ht : t.buf.wf) {a : Nat}
    (ha : a < paddedLen s) :
    (encryptPadded (variantOf s) s).buf.read a = (encryptPadded (variantOf t) t).buf.read a := by
  have hmod := paddedLen_mod s
  have hchain := encryptPadded_chained ht
  rw [← paddedLen_congr h, ← paddedByte_congr h] at hchain
  obtain ⟨-, -, hklen, hkey, -, hiv⟩ := h
  rw [← encryptBlock_scheduleOf_congr hklen hkey, ← hiv] at hchain
  exact eq_of_blockOf_eq ((encryptPadded_chained hs).unique hchain) (by omega)

end SameMessage

/-- Two states report the same outcome, with the same bytes of BUF where it is a success. -/
def SameOutcome (t t' : State) : Prop :=
  t.err = t'.err ∧ t.sub = t'.sub ∧ t.len = t'.len ∧
    (t.err = 0 → ∀ a, a < t.len.toNat → t.buf.read a = t'.buf.read a)

theorem sameOutcome_cbcenc {s s' : State} (hs : s.buf.wf) (hs' : s'.buf.wf)
    (h : SameMessage s s') :
    ∃ t t', exec .cbcenc s = .next t ∧ exec .cbcenc s' = .next t' ∧ SameOutcome t t' := by
  have hpad := paddedLen_congr h
  have hread {a : Nat} := read_encryptPadded_congr h hs hs' (a := a)
  obtain ⟨hlen, -, hklen, -, hivlen, -⟩ := h
  have hkeyOk : KeyOk s = KeyOk s' := by rw [KeyOk, hklen]
  by_cases hkey : KeyOk s
  case neg =>
    exact ⟨_, _, exec_cbcenc_of_bad_key hkey, exec_cbcenc_of_bad_key (hkeyOk ▸ hkey), rfl, rfl,
      hlen, nofun⟩
  have hkey' : KeyOk s' := hkeyOk ▸ hkey
  by_cases hiv : s.ivlen.toNat = 16
  case neg =>
    exact ⟨_, _, exec_cbcenc_of_bad_iv hkey hiv, exec_cbcenc_of_bad_iv hkey' (hivlen ▸ hiv), rfl,
      rfl, hlen, nofun⟩
  have hiv' : s'.ivlen.toNat = 16 := hivlen ▸ hiv
  by_cases hfits : paddedLen s ≤ Config.params.bufCap
  case neg =>
    have hover := Nat.lt_of_not_le hfits
    exact ⟨_, _, exec_cbcenc_of_overflow hkey hiv hover,
      exec_cbcenc_of_overflow hkey' hiv' (hpad ▸ hover), rfl, rfl, hlen, nofun⟩
  exact ⟨_, _, exec_cbcenc_of_fits hkey hiv hfits, exec_cbcenc_of_fits hkey' hiv' (hpad ▸ hfits),
    rfl, rfl, congrArg (BitVec.ofNat 32) hpad,
    fun _ _ ha => hread (ha.trans_eq (toNat_ofNat_of_le_bufCap hfits))⟩

/-- Settles O41: decryption takes the chaining back block by block, and the chaining determines the
ciphertext. -/
theorem cbcRoundTrip : Obligations.CbcRoundTrip := by
  refine ⟨fun s hwf hkey hiv hfits => ?_, fun s s' hs hs' => sameOutcome_cbcenc hs hs'⟩
  have hlen : lenOf (rekeyed s) = paddedLen s := toNat_ofNat_of_le_bufCap hfits
  have hdec := cbcDecryptInPlace_rekeyed hwf
  rw [← hlen] at hdec
  exact ⟨_, _, exec_cbcenc_of_fits hkey hiv hfits,
    exec_cbcdec_of_fits (s := rekeyed s) hkey hiv (hlen.le.trans hfits) hdec, rfl,
    hlen ▸ len_decrypted_rekeyed hwf, fun a ha => hlen ▸ read_decrypted_rekeyed hwf ha⟩

end Sys2Proof.Proofs
end

section
/-! SEAL (`46_container_codec.md` R210, R211, R214): one equation for each way it can end, the three
fields of the container, and what they depend on (R216). -/

namespace Sys2Proof.Proofs

open Sys2Proof.Machine Sys2Proof.Claims

/-! ## The container -/

/-- The length of the container SEAL leaves (R211). -/
def containerLen (s : State) : Nat := paddedLen s + 16 + Config.params.macLen

/-- BUF with the ciphertext and the IV behind it: the bytes the tag is of (R210). -/
def cipherAndIv (s : State) : Memory :=
  (encryptPadded (variantOf s) s).buf.writeBlock (paddedLen s) s.iv

/-- The tag of ciphertext and IV (R211). -/
def containerTag (s : State) : List Byte :=
  Config.params.mac (macKeyBytes s) ((cipherAndIv s).readBytes 0 (paddedLen s + 16))

/-- BUF with the whole container. -/
def containerBuf (s : State) : Memory :=
  (cipherAndIv s).writeBytes (paddedLen s + 16) (containerTag s)

theorem length_containerTag (s : State) : (containerTag s).length = Config.params.macLen :=
  Config.length_mac _ _

section Fields
variable {s : State} (hwf : s.buf.wf)
include hwf

theorem wf_cipherAndIv : (cipherAndIv s).wf := Memory.wf_writeBlock (wf_encryptPadded hwf) _ _

theorem wf_containerBuf : (containerBuf s).wf := Memory.wf_writeBytes (wf_cipherAndIv hwf) _ _

theorem read_cipherAndIv (a : Nat) :
    (cipherAndIv s).read a =
      if h : paddedLen s ≤ a ∧ a < paddedLen s + 16 then s.iv[a - paddedLen s]'(by omega)
      else (encryptPadded (variantOf s) s).buf.read a :=
  Memory.read_writeBlock (wf_encryptPadded hwf) _ _ a

theorem read_containerBuf (a : Nat) :
    (containerBuf s).read a =
      if paddedLen s + 16 ≤ a ∧ a < containerLen s then
        (containerTag s).getD (a - (paddedLen s + 16)) 0
      else (cipherAndIv s).read a := by
  rw [containerBuf, Memory.read_writeBytes (wf_cipherAndIv hwf), length_containerTag, containerLen]

/-- The container begins with the ciphertext of CBCENC. -/
theorem read_containerBuf_cipher {a : Nat} (ha : a < paddedLen s) :
    (containerBuf s).read a = (encryptPadded (variantOf s) s).buf.read a := by
  rw [read_containerBuf hwf, if_neg (by omega), read_cipherAndIv hwf, dif_neg (by omega)]

/-- The IV stands behind the ciphertext. -/
theorem read_containerBuf_iv {i : Nat} (hi : i < 16) :
    (containerBuf s).read (paddedLen s + i) = s.iv[i] := by
  rw [read_containerBuf hwf, if_neg (by omega), read_cipherAndIv hwf, dif_pos (by omega)]
  simp only [Nat.add_sub_cancel_left]

/-- The tag stands behind the IV. -/
theorem readBytes_containerBuf_tag :
    (containerBuf s).readBytes (paddedLen s + 16) Config.params.macLen = containerTag s := by
  rw [← length_containerTag s]
  exact Memory.readBytes_writeBytes (wf_cipherAndIv hwf) _ _

/-- The tag does not stand among the bytes it is of. -/
theorem readBytes_containerBuf_cipherAndIv :
    (containerBuf s).readBytes 0 (paddedLen s + 16) =
      (cipherAndIv s).readBytes 0 (paddedLen s + 16) :=
  Memory.readBytes_congr fun i hi => Memory.read_writeBytes_of_lt (wf_cipherAndIv hwf) _ (by omega)

/-- The tag that stands in the container is the tag of the bytes before it. -/
theorem containerBuf_tagged :
    Config.params.mac (macKeyBytes s) ((containerBuf s).readBytes 0 (paddedLen s + 16)) =
      (containerBuf s).readBytes (paddedLen s + 16) Config.params.macLen := by
  rw [readBytes_containerBuf_cipherAndIv hwf, readBytes_containerBuf_tag hwf, containerTag]

theorem read_containerBuf_of_le {a : Nat} (ha : containerLen s ≤ a) :
    (containerBuf s).read a = s.buf.read a := by
  have hend : paddedLen s + 16 ≤ containerLen s := Nat.le_add_right _ _
  rw [read_containerBuf hwf, if_neg (by omega), read_cipherAndIv hwf, dif_neg (by omega),
    read_encryptPadded_of_le hwf (by rw [← paddedLen_eq]; omega)]

end Fields

/-! ## The ways SEAL ends -/

/-- The state SEAL completes in. -/
def sealed (s : State) : State :=
  { wiped s with
    buf := containerBuf s
    len := BitVec.ofNat 32 (containerLen s)
    err := 0
    sub := 0 }

theorem lenOf_sealed {s : State} (h : containerLen s ≤ Config.params.bufCap) :
    lenOf (sealed s) = containerLen s := toNat_ofNat_of_le_bufCap h

theorem paddedLen_le_containerLen (s : State) : paddedLen s ≤ containerLen s :=
  (Nat.le_add_right _ _).trans (Nat.le_add_right _ _)

theorem lenOf_cbcEncrypt {s : State} (v : Variant) (h : paddedLen s ≤ Config.params.bufCap) :
    lenOf (cbcEncrypt v s) = paddedLen s := toNat_ofNat_of_le_bufCap h

theorem completeTop_appendIvAndTag {s : State} (h : containerLen s ≤ Config.params.bufCap) :
    completeTop (appendIvAndTag Config.params (cbcEncrypt (variantOf s) s)) = sealed s := by
  have hlen := lenOf_cbcEncrypt (variantOf s) ((paddedLen_le_containerLen s).trans h)
  rw [completeTop_eq, appendIvAndTag, hlen, cbcEncrypt_frame]
  rfl

theorem exec_seal_of_bad_key {s : State} (h : ¬KeyOk s) :
    exec .sealContainer s = .next { wiped s with err := 1, sub := 1 } := by
  rw [exec, execSeal, sealCommand, (keyVariant_eq_none s).2 h]
  rfl

section Seal
variable {s : State} (hkey : KeyOk s)
include hkey

theorem exec_seal_of_bad_iv (h : s.ivlen.toNat ≠ 16) :
    exec .sealContainer s = .next { wiped s with err := 1, sub := 2 } := by
  have hiv : ivLenLegal s = false := by rwa [← Bool.not_eq_true, ivLenLegal_iff]
  rw [exec, execSeal, sealCommand, keyVariant_eq_variantOf hkey, hiv]
  rfl

variable (hiv : s.ivlen.toNat = 16)
include hiv

theorem exec_seal_of_bad_macKey (h : ¬MacKeyOk s) :
    exec .sealContainer s = .next { wiped s with err := 1, sub := 3 } := by
  have hmac : macKeyLenLegal s = false := by rwa [← Bool.not_eq_true, macKeyLenLegal_iff]
  rw [exec, execSeal, sealCommand, keyVariant_eq_variantOf hkey, (ivLenLegal_iff s).2 hiv, hmac]
  rfl

variable (hmac : MacKeyOk s)
include hmac

theorem exec_seal_of_overflow (h : Config.params.bufCap < containerLen s) :
    exec .sealContainer s = .next { wiped s with err := 1, sub := 4 } := by
  rw [exec, execSeal, sealCommand, keyVariant_eq_variantOf hkey, (ivLenLegal_iff s).2 hiv,
    (macKeyLenLegal_iff s).2 hmac]
  exact congrArg _ (if_pos h)

theorem exec_seal_of_fits (h : containerLen s ≤ Config.params.bufCap) :
    exec .sealContainer s = .next (sealed s) := by
  rw [exec, execSeal, sealCommand, keyVariant_eq_variantOf hkey, (ivLenLegal_iff s).2 hiv,
    (macKeyLenLegal_iff s).2 hmac, ← completeTop_appendIvAndTag h]
  exact congrArg _ (if_neg (Nat.not_lt.2 h))

end Seal

/-- Settles O42: one way to end for each premise, and the container field by field. -/
theorem sealBuildsTheContainer : Obligations.SealBuildsTheContainer := by
  refine ⟨rfl, fun s => ⟨exec_seal_of_bad_key, exec_seal_of_bad_iv, exec_seal_of_bad_macKey,
    exec_seal_of_overflow⟩, fun s hwf hkey hiv hmac hfits => ?_⟩
  have hcipher : paddedLen s ≤ Config.params.bufCap := (paddedLen_le_containerLen s).trans hfits
  refine ⟨_, _, exec_seal_of_fits hkey hiv hmac hfits, exec_cbcenc_of_fits hkey hiv hcipher, rfl,
    lenOf_sealed hfits, fun a => read_containerBuf_cipher hwf, fun i hi => ?_,
    (containerBuf_tagged hwf).symm, fun a => read_containerBuf_of_le hwf⟩
  rw [byteOf_eq_getElem _ hi]
  exact read_containerBuf_iv hwf hi

/-! ## Two states with the same message, key, IV and MAC key -/

section SameInputs
variable {s t : State} (h : SameInputs s t)
include h

theorem containerLen_congr : containerLen s = containerLen t := by
  rw [containerLen, paddedLen_congr h.1, containerLen]

variable (hs : s.buf.wf) (ht : t.buf.wf)
include hs ht

theorem read_cipherAndIv_congr {a : Nat} (ha : a < paddedLen s + 16) :
    (cipherAndIv s).read a = (cipherAndIv t).read a := by
  obtain ⟨hmessage, -⟩ := h
  have hcipher := read_encryptPadded_congr hmessage hs ht (a := a)
  have hpad := paddedLen_congr hmessage
  obtain ⟨-, -, -, -, -, hiv⟩ := hmessage
  simp only [read_cipherAndIv hs, read_cipherAndIv ht, ← hpad, ← hiv]
  split
  · rfl
  · exact hcipher (by omega)

theorem containerTag_congr : containerTag s = containerTag t := by
  have hread := Memory.readBytes_congr (a := 0) (k := paddedLen s + 16) fun i hi =>
    read_cipherAndIv_congr h hs ht (a := 0 + i) (by omega)
  obtain ⟨hmessage, -, hmkey⟩ := h
  rw [containerTag, hread, hmkey, paddedLen_congr hmessage, containerTag]

theorem read_containerBuf_congr {a : Nat} (ha : a < containerLen s) :
    (containerBuf s).read a = (containerBuf t).read a := by
  have hbody := read_cipherAndIv_congr h hs ht (a := a)
  rw [read_containerBuf hs, read_containerBuf ht, ← containerTag_congr h hs ht,
    ← containerLen_congr h, ← paddedLen_congr h.1]
  split
  · rfl
  · exact hbody (by omega)

end SameInputs

/-- Settles O47: the two states pass the same tests, and the containers agree byte by byte. -/
theorem sealDependsOnItsInputsOnly : Obligations.SealDependsOnItsInputsOnly := by
  intro s s' hs hs' h
  have hread {a : Nat} := read_containerBuf_congr h hs hs' (a := a)
  have hend := containerLen_congr h
  obtain ⟨⟨hlen, -, hklen, -, hivlen, -⟩, hmklen, -⟩ := h
  have hkeyOk : KeyOk s = KeyOk s' := by rw [KeyOk, hklen]
  have hmacOk : MacKeyOk s = MacKeyOk s' := by rw [MacKeyOk, hmklen]
  by_cases hkey : KeyOk s
  case neg =>
    exact ⟨_, _, exec_seal_of_bad_key hkey, exec_seal_of_bad_key (hkeyOk ▸ hkey), rfl, rfl, hlen,
      nofun⟩
  have hkey' : KeyOk s' := hkeyOk ▸ hkey
  by_cases hiv : s.ivlen.toNat = 16
  case neg =>
    exact ⟨_, _, exec_seal_of_bad_iv hkey hiv, exec_seal_of_bad_iv hkey' (hivlen ▸ hiv), rfl, rfl,
      hlen, nofun⟩
  have hiv' : s'.ivlen.toNat = 16 := hivlen ▸ hiv
  by_cases hmac : MacKeyOk s
  case neg =>
    exact ⟨_, _, exec_seal_of_bad_macKey hkey hiv hmac,
      exec_seal_of_bad_macKey hkey' hiv' (hmacOk ▸ hmac), rfl, rfl, hlen, nofun⟩
  have hmac' : MacKeyOk s' := hmacOk ▸ hmac
  by_cases hfits : containerLen s ≤ Config.params.bufCap
  case neg =>
    have hover := Nat.lt_of_not_le hfits
    exact ⟨_, _, exec_seal_of_overflow hkey hiv hmac hover,
      exec_seal_of_overflow hkey' hiv' hmac' (hend ▸ hover), rfl, rfl, hlen, nofun⟩
  exact ⟨_, _, exec_seal_of_fits hkey hiv hmac hfits,
    exec_seal_of_fits hkey' hiv' hmac' (hend ▸ hfits), rfl, rfl,
    congrArg (BitVec.ofNat 32) hend, fun _ _ ha => hread (ha.trans_eq (lenOf_sealed hfits))⟩

end Sys2Proof.Proofs
end

section
/-! OPEN (`46_container_codec.md` R212, R213, R215): one equation for each way it can end. Where the
tags match, it ends as CBCDEC does with the ciphertext and the IV of the container. -/

namespace Sys2Proof.Proofs

open Sys2Proof.Machine Sys2Proof.Claims

/-! ## What the decryption does not use -/

/-- `s` with other contents of LEN and TAGX. -/
def withLenTagx (l : Word32) (m : Memory) (s : State) : State :=
  { s with len := l, hidden := { s.hidden with tagx := m } }

theorem cbcDecBlocks_withLenTagx {v : Variant} {l : Word32} {m : Memory} {s : State} (j b : Nat) :
    cbcDecBlocks v j b (withLenTagx l m s) = withLenTagx l m (cbcDecBlocks v j b s) := by
  induction j generalizing b s with
  | zero => rfl
  | succ j ih => exact ih (s := cbcDecBlock v b s) (b + 1)

/-- A decryption of `n` bytes computes LEN from `n`, and clears TAGX without reading it. -/
theorem cbcDecryptInPlace_withLenTagx (v : Variant) (l : Word32) (m : Memory) (s : State) {n : Nat}
    (h : cipherLenBad n = false) :
    cbcDecryptInPlace v n (withLenTagx l m s) = cbcDecryptInPlace v n s := by
  have hdec : cbcDecrypt v n (withLenTagx l m s) = withLenTagx l m (cbcDecrypt v n s) :=
    cbcDecBlocks_withLenTagx (s := chainFromIv (expandState s)) _ _
  rw [cbcDecryptInPlace, cbcDecryptInPlace, hdec, h]
  rfl

/-! ## The tag -/

/-- The tag OPEN recomputes is compared with all MacLen bytes of the stored one (R213). -/
theorem tagMatches_recomputeTag (s : State) (clen : Nat) :
    tagMatches Config.params clen (recomputeTag Config.params clen s) = true ↔ TagOk s clen := by
  have htagx := Memory.readBytes_writeBytes Memory.wf_nil 0 (macRequest Config.params (clen + 16) s)
  rw [macRequest, Config.length_mac] at htagx
  rw [tagMatches, decide_eq_true_iff]
  exact Eq.congr_left htagx

/-! ## The ways OPEN ends -/

/-- The state with the IV of its container loaded. -/
def withContainerIv (s : State) : State := { s with iv := containerIv s, ivlen := 16 }

theorem clenOf_le (s : State) : clenOf s ≤ lenOf s := (Nat.sub_le _ _).trans (Nat.sub_le _ _)

theorem cipherLenBad_clenOf {s : State} (hpos : clenOf s ≠ 0) (hmod : clenOf s % 16 = 0) :
    cipherLenBad (clenOf s) = false := by
  rw [← Bool.not_eq_true, cipherLenBad_iff]
  omega

theorem exec_open_of_bad_key {s : State} (h : ¬KeyOk s) :
    exec .openContainer s = .next { wiped s with err := 1, sub := 1 } := by
  rw [exec, execOpen, openCommand, (keyVariant_eq_none s).2 h]
  rfl

section Open
variable {s : State} (hkey : KeyOk s)
include hkey

theorem exec_open_of_bad_macKey (h : ¬MacKeyOk s) :
    exec .openContainer s = .next { wiped s with err := 1, sub := 3 } := by
  have hmac : macKeyLenLegal s = false := by rwa [← Bool.not_eq_true, macKeyLenLegal_iff]
  rw [exec, execOpen, openCommand, keyVariant_eq_variantOf hkey, hmac]
  rfl

variable (hmac : MacKeyOk s)
include hmac

theorem exec_open_of_overflow (h : Config.params.bufCap < lenOf s) :
    exec .openContainer s = .next { wiped s with err := 1, sub := 4 } := by
  rw [exec, execOpen, openCommand, keyVariant_eq_variantOf hkey, (macKeyLenLegal_iff s).2 hmac]
  exact congrArg _ (if_pos h)

variable (hcap : lenOf s ≤ Config.params.bufCap)
include hcap

theorem exec_open_of_short (h : lenOf s < 16 + Config.params.macLen) :
    exec .openContainer s = .next { wiped s with err := 2, sub := 0 } := by
  rw [exec, execOpen, openCommand, keyVariant_eq_variantOf hkey, (macKeyLenLegal_iff s).2 hmac]
  exact congrArg _ ((if_neg (Nat.not_lt.2 hcap)).trans (if_pos h))

variable (hlong : 16 + Config.params.macLen ≤ lenOf s)
include hlong

/-- Past the first four tests OPEN looks at the tag. -/
theorem exec_open_of_long :
    exec .openContainer s = .next
      (if TagOk s (clenOf s) then
        cbcDecryptInPlace (variantOf s) (clenOf s)
          (loadContainerIv (clenOf s) (recomputeTag Config.params (clenOf s) s))
      else { wiped s with err := 4, sub := 0 }) := by
  have hmatch := tagMatches_recomputeTag s (clenOf s)
  rw [exec, execOpen, openCommand, keyVariant_eq_variantOf hkey, (macKeyLenLegal_iff s).2 hmac]
  refine congrArg _ ((if_neg (Nat.not_lt.2 hcap)).trans ((if_neg (Nat.not_lt.2 hlong)).trans ?_))
  by_cases htag : TagOk s (clenOf s)
  · rw [if_pos htag]
    exact if_neg (by rw [Bool.not_eq_true', Bool.not_eq_false]; exact hmatch.2 htag)
  · rw [if_neg htag]
    exact if_pos (by rw [Bool.not_eq_true', ← Bool.not_eq_true]; exact mt hmatch.1 htag)

theorem exec_open_of_bad_tag (h : ¬TagOk s (clenOf s)) :
    exec .openContainer s = .next { wiped s with err := 4, sub := 0 } := by
  rw [exec_open_of_long hkey hmac hcap hlong, if_neg h]

variable (htag : TagOk s (clenOf s))
include htag

theorem exec_open_of_bad_length (h : clenOf s = 0 ∨ clenOf s % 16 ≠ 0) :
    exec .openContainer s = .next { wiped (withContainerIv s) with err := 2, sub := 0 } := by
  rw [exec_open_of_long hkey hmac hcap hlong, if_pos htag]
  exact congrArg _ (cbcDecryptInPlace_of_bad_length (loadContainerIv _ (recomputeTag _ _ s)) h)

variable (hpos : clenOf s ≠ 0) (hmod : clenOf s % 16 = 0)
include hpos hmod

/-- A good tag on a good length: OPEN decrypts with the IV of the container. -/
theorem exec_open_of_good_length {t : State}
    (ht : cbcDecryptInPlace (variantOf s) (clenOf s) (withContainerIv s) = t) :
    exec .openContainer s = .next t := by
  rw [exec_open_of_long hkey hmac hcap hlong, if_pos htag, ← ht,
    ← cbcDecryptInPlace_withLenTagx _ s.len _ _ (cipherLenBad_clenOf hpos hmod)]
  rfl

end Open

/-- CBCDEC of the ciphertext with the IV of the container runs the same decryption. -/
theorem exec_cbcdec_withContainerIv {s : State} (hkey : KeyOk s)
    (hcap : lenOf s ≤ Config.params.bufCap) (hpos : clenOf s ≠ 0) (hmod : clenOf s % 16 = 0)
    {t : State} (ht : cbcDecryptInPlace (variantOf s) (clenOf s) (withContainerIv s) = t) :
    exec .cbcdec { s with len := BitVec.ofNat 32 (clenOf s), iv := containerIv s, ivlen := 16 } =
      .next t := by
  have hclen := (clenOf_le s).trans hcap
  have hlen : (BitVec.ofNat 32 (clenOf s)).toNat = clenOf s := toNat_ofNat_of_le_bufCap hclen
  refine exec_cbcdec_of_fits
    (s := withLenTagx (BitVec.ofNat 32 (clenOf s)) s.hidden.tagx (withContainerIv s)) hkey rfl
    (hlen.trans_le hclen) ?_
  rw [← ht, ← cbcDecryptInPlace_withLenTagx _ _ _ _ (cipherLenBad_clenOf hpos hmod)]
  exact congrArg (cbcDecryptInPlace _ · _) hlen

/-! ## The statement -/

/-- Settles O44: one way to end for each premise, and the two outcomes of the decryption. -/
theorem openDecryptsAfterTheTag : Obligations.OpenDecryptsAfterTheTag := by
  refine ⟨rfl, fun s => ⟨exec_open_of_bad_key, exec_open_of_bad_macKey, exec_open_of_overflow,
    exec_open_of_short, exec_open_of_bad_tag⟩, fun s hwf hkey hmac hcap hlong htag =>
    ⟨exec_open_of_bad_length hkey hmac hcap hlong htag, fun hpos hmod => ?_⟩⟩
  have hclen := (clenOf_le s).trans hcap
  obtain ⟨hbeyond, -⟩ :=
    storesWithin_cbcDecryptInPlace (variantOf s) (s := withContainerIv s) hwf hclen
  have hframe := (cbcDecryptInPlace_endsDiscarded (variantOf s) (withContainerIv s) hclen).frame
  refine ⟨_, exec_open_of_good_length hkey hmac hcap hlong htag hpos hmod rfl,
    exec_cbcdec_withContainerIv hkey hcap hpos hmod rfl, congrArg State.iv hframe,
    congrArg (·.ivlen.toNat) hframe, fun hgood => ?_, fun hbad => ?_,
    fun a ha => hbeyond a (.inr ha)⟩
  · have hend : cbcDecryptInPlace (variantOf s) (clenOf s) (withContainerIv s) = _ :=
      cbcDecryptInPlace_of_good_pad (s := withContainerIv s) hwf hpos hmod hgood
    rw [hend]
    exact ⟨rfl, toNat_ofNat_of_le_bufCap ((Nat.sub_le _ _).trans hclen),
      fun a => read_cbcDecrypt_eq_recoveredByte (s := withContainerIv s) hwf hmod⟩
  · have hend : cbcDecryptInPlace (variantOf s) (clenOf s) (withContainerIv s) = _ :=
      cbcDecryptInPlace_of_bad_pad (s := withContainerIv s) hwf hpos hmod hbad
    rw [hend]
    exact ⟨rfl, rfl, fun a ha =>
      (read_paddingRefused (s := withContainerIv s) hwf (clenOf s) a).trans (if_pos ha)⟩

end Sys2Proof.Proofs
end

section
/-! OPEN after SEAL (`46_container_codec.md` R216): the container comes back as the message, and
with a changed tag byte it is refused. -/

namespace Sys2Proof.Proofs

open Sys2Proof.Machine Sys2Proof.Claims

/-! ## The container with the keys loaded again -/

/-- The state SEAL completes in, with the keys loaded again and a BUF of the host's. -/
def resealed (m : Memory) (s : State) : State :=
  { sealed s with key := s.key, klen := s.klen, mkey := s.mkey, mklen := s.mklen, buf := m }

section Resealed
variable {s : State}

section Length
variable (m : Memory) (hfits : containerLen s ≤ Config.params.bufCap)
include hfits

theorem lenOf_resealed : lenOf (resealed m s) = containerLen s := lenOf_sealed hfits

theorem le_lenOf_resealed : 16 + Config.params.macLen ≤ lenOf (resealed m s) := by
  rw [lenOf_resealed m hfits, containerLen]
  omega

theorem clenOf_resealed : clenOf (resealed m s) = paddedLen s := by
  have hlen : (resealed m s).len.toNat = containerLen s := lenOf_resealed m hfits
  rw [clenOf, hlen, containerLen]
  omega

end Length

variable (hwf : s.buf.wf)
include hwf

theorem containerIv_resealed (hfits : containerLen s ≤ Config.params.bufCap) :
    containerIv (resealed (containerBuf s) s) = s.iv := by
  refine Vector.ext fun i hi => ?_
  rw [containerIv, Vector.getElem_ofFn, clenOf_resealed _ hfits]
  exact read_containerBuf_iv hwf hi

theorem tagOk_resealed : TagOk (resealed (containerBuf s) s) (paddedLen s) :=
  containerBuf_tagged hwf

/-- The ciphertext of the container is the one of CBCENC, so it decrypts to the same bytes. -/
theorem recoveredByte_resealed {a : Nat} (ha : a < paddedLen s) :
    recoveredByte (resealed (containerBuf s) s) s.iv a = paddedByte s a := by
  have hmod := paddedLen_mod s
  have hread {b : Nat} (hb : b < paddedLen s / 16) :
      blockOf (containerBuf s).read b = blockOf (encryptPadded (variantOf s) s).buf.read b :=
    blockOf_congr fun j hj => read_containerBuf_cipher hwf (by omega)
  have hblock : recoveredBlock (resealed (containerBuf s) s) s.iv (a / 16) =
      recoveredBlock (rekeyed s) s.iv (a / 16) := by
    rw [recoveredBlock, recoveredBlock]
    exact congrArg₂ (fun x y => xorBlock (decryptBlock (scheduleOf s) x) y) (hread (by omega))
      (chainBefore_congr fun j hj => hread (by omega))
  rw [← recoveredByte_rekeyed hwf ha, recoveredByte, hblock]
  rfl

theorem recoveredByte_resealed_last :
    recoveredByte (resealed (containerBuf s) s) s.iv (paddedLen s - 1) =
      BitVec.ofNat 8 (padLen (lenOf s)) := by
  have hlt := lenOf_lt_paddedLen s
  rw [recoveredByte_resealed hwf (by omega), paddedByte_last]

theorem not_padBad_resealed : ¬PadBad (resealed (containerBuf s) s) s.iv (paddedLen s) := by
  rw [PadBad, recoveredByte_resealed_last hwf, ← padByteBad_iff, not_padByteBad_padByte]
  exact Bool.false_ne_true

end Resealed

/-- Settles O45: the tag of the container is the one of its bytes, and OPEN then recovers the padded
message. -/
theorem sealOpenRoundTrip : Obligations.SealOpenRoundTrip := by
  intro s hwf hkey hiv hmac hfits
  have hclen := clenOf_resealed (containerBuf s) hfits
  have hlt := lenOf_lt_paddedLen s
  obtain ⟨-, -, hopen⟩ := openDecryptsAfterTheTag
  obtain ⟨-, hgood⟩ := hopen (resealed (containerBuf s) s) (wf_containerBuf hwf) hkey hmac
    ((lenOf_resealed _ hfits).trans_le hfits) (le_lenOf_resealed _ hfits)
    (hclen ▸ tagOk_resealed hwf)
  rw [hclen, containerIv_resealed hwf hfits] at hgood
  obtain ⟨u, hexec, -, huiv, -, hrec, -⟩ := hgood (Nat.ne_zero_of_lt hlt) (paddedLen_mod s)
  obtain ⟨herr, hlen, hread⟩ := hrec (not_padBad_resealed hwf)
  refine ⟨_, u, exec_seal_of_fits hkey hiv hmac hfits, hexec, herr, ?_, huiv, fun a ha => ?_⟩
  · rw [recoveredByte_resealed_last hwf, toNat_padByte, paddedLen_eq, Nat.add_sub_cancel] at hlen
    exact BitVec.eq_of_toNat_eq hlen
  · have hpad := Nat.lt_trans ha hlt
    rw [hread a hpad, recoveredByte_resealed hwf hpad]
    exact paddedByte_of_lt ha

/-! ## A changed tag byte -/

/-- The container with another byte in place of byte `j` of its tag. -/
def retagged (j : Nat) (v : Byte) (s : State) : Memory :=
  (containerBuf s).write (paddedLen s + 16 + j) v

/-- The bytes the tag is of are still the same, and the stored tag is another. -/
theorem not_tagOk_retagged {s : State} (hwf : s.buf.wf) {j : Nat} {v : Byte}
    (hj : j < Config.params.macLen) (hv : (containerBuf s).read (paddedLen s + 16 + j) ≠ v) :
    ¬TagOk (resealed (retagged j v s) s) (paddedLen s) := by
  have hread := Memory.read_write (wf_containerBuf hwf) (paddedLen s + 16 + j) v
  have hbody : (retagged j v s).readBytes 0 (paddedLen s + 16) =
      (containerBuf s).readBytes 0 (paddedLen s + 16) :=
    Memory.readBytes_congr fun i hi => (hread _).trans (if_neg (by omega))
  have hmac : Config.params.mac (macKeyBytes s) ((retagged j v s).readBytes 0 (paddedLen s + 16)) =
      (containerBuf s).readBytes (paddedLen s + 16) Config.params.macLen := by
    rw [hbody, containerBuf_tagged hwf]
  intro htag
  have hbyte := congrArg (·.getD j 0) (hmac.symm.trans htag)
  simp only [Memory.getD_readBytes _ _ _ _ hj] at hbyte
  exact hv (hbyte.trans ((hread _).trans (if_pos rfl)))

/-- Settles O46: a tag with another byte is another tag. -/
theorem changedTagIsRejected : Obligations.ChangedTagIsRejected := by
  intro s j v hwf hkey hiv hmac hfits hj
  refine ⟨_, exec_seal_of_fits hkey hiv hmac hfits, fun hv => ?_⟩
  have hbad := exec_open_of_bad_tag (s := resealed (retagged j v s) s) hkey hmac
    ((lenOf_resealed _ hfits).trans_le hfits) (le_lenOf_resealed _ hfits)
    (clenOf_resealed _ hfits ▸ not_tagOk_retagged hwf hj hv)
  exact ⟨_, hbad, rfl, rfl, rfl⟩

end Sys2Proof.Proofs
end

section
/-! The system commands and the two ways a step can go without a legal command: the reset input and
an illegal word (`47_system.md` R230, R231; `60_exceptions.md` R245, R252, R259;
`70_reset_and_hazards.md` R280, R281). -/

namespace Sys2Proof.Proofs

open Sys2Proof.Machine Sys2Proof.Claims

/-! ## NOP, ZEROIZE and the reset input -/

theorem exec_nop (s : State) : exec .nop s = .next (succeed s) := rfl

theorem exec_zeroize (s : State) : exec .zeroize s = .next (succeed (resetCore s)) := rfl

/-- The reset state reports no error already (R39). -/
theorem succeed_resetCore (s : State) : succeed (resetCore s) = resetCore s := rfl

/-- Settles O13: ZEROIZE resets, and ERR and SUB are then 0 already. -/
theorem zeroizeGivesTheResetState : Obligations.ZeroizeGivesTheResetState :=
  ⟨rfl, fun s => (exec_zeroize s).trans (congrArg _ (succeed_resetCore s))⟩

/-- Settles O12: the event that waits is the pulse. -/
theorem resetInputGivesTheResetState : Obligations.ResetInputGivesTheResetState :=
  fun _ _ hp => step_reset hp

theorem toNat_statusWord_succeed (s : State) :
    (statusWord (succeed s)).toNat = 128 * s.rkv.toNat + 256 * s.nr.toNat := by
  simp [toNat_statusWord]

/-- Settles O14: STATUS keeps the digits RKV and NR, and loses ERR and SUB. -/
theorem nopOnlyClearsTheError : Obligations.NopOnlyClearsTheError := by
  refine ⟨rfl, exec_nop, fun s t ht hs => ?_⟩
  cases (exec_nop s).symm.trans ht
  have hdigits : s.err.toNat + 16 * s.sub.toNat + 128 * s.rkv.toNat + 256 * s.nr.toNat = 0x0A87 :=
    (toNat_statusWord s).symm.trans (congrArg BitVec.toNat hs)
  have herr := s.err.isLt
  have hsub := s.sub.isLt
  have hrkv := s.rkv.toNat_lt
  have hkept : 128 * s.rkv.toNat + 256 * s.nr.toNat = 0x0A80 := by omega
  exact BitVec.eq_of_toNat_eq ((toNat_statusWord_succeed s).trans hkept)

/-! ## An illegal word -/

theorem writeCmd_of_illegalValue {v : Word32} (h : IllegalValue v) (s : State) :
    writeCmd v s = .next (raiseError .primitive .illegalCommand s) := by
  rw [IllegalValue, ← cmdWordOf_eq, ← decodes_iff_mem_legalWords] at h
  cases hd : decode (cmdWordOf v) with
  | ok i => exact absurd ⟨i, hd⟩ h
  | error e => rw [writeCmd, hd]

/-- Settles O6: the decoder raises the error, and the hidden registers it clears are clear. -/
theorem illegalWordRaisesIllegalCommand : Obligations.IllegalWordRaisesIllegalCommand :=
  fun s _ hidle hv =>
    (writeCmd_of_illegalValue hv s).trans (congrArg _ (raiseError_primitive_idle _ hidle))

/-! ## Every step answers -/

theorem exec_answers (i : Instr) (s : State) : ∃ t, exec i s = .next t := by
  by_cases hz : i = .zeroize
  · exact ⟨_, hz ▸ exec_zeroize s⟩
  · obtain ⟨t, ht, -⟩ := keepsRow_exec i s hz
    exact ⟨t, ht⟩

theorem writeCmd_answers (v : Word32) (s : State) : ∃ t, writeCmd v s = .next t := by
  unfold writeCmd
  split
  · exact exec_answers _ s
  · exact ⟨_, rfl⟩

/-- Settles O57: by the event the step serves. -/
theorem everyStepAnswersANextState : Obligations.EveryStepAnswersANextState := by
  intro s
  cases hp : s.pending with
  | nil => exact ⟨_, step_idle hp⟩
  | cons e rest =>
    cases e with
    | read n => exact ⟨_, step_read hp⟩
    | reset => exact ⟨_, step_reset hp⟩
    | write n v =>
      by_cases hn : n = 0
      · subst hn
        rw [step_command hp]
        exact writeCmd_answers v _
      · exact ⟨_, step_write hp hn⟩

end Sys2Proof.Proofs
end

section
/-! The discard of the top-level commands (`47_system.md` R236, `60_exceptions.md` R257). -/

namespace Sys2Proof.Proofs

open Sys2Proof.Machine Sys2Proof.Claims

theorem mem_topLevel_iff {i : Instr} :
    i ∈ topLevel ↔ i = .cbcenc ∨ i = .cbcdec ∨ i = .sealContainer ∨ i = .openContainer := by
  simp only [topLevel, List.mem_cons, List.not_mem_nil, or_false]

/-- Every exit of a top-level command discards; OPEN alone may have loaded another IV. -/
theorem exec_topLevel_endsDiscarded {i : Instr} (hi : i ∈ topLevel) (s : State) :
    ∃ t x n, exec i s = .next t ∧ EndsDiscarded { s with iv := x, ivlen := n } t ∧
      (i ≠ .openContainer → x = s.iv ∧ n = s.ivlen) := by
  have hkeep : s.iv = s.iv ∧ s.ivlen = s.ivlen := ⟨rfl, rfl⟩
  rcases mem_topLevel_iff.1 hi with rfl | rfl | rfl | rfl
  · exact ⟨_, _, _, rfl, cbcencCommand_endsDiscarded s, fun _ => hkeep⟩
  · exact ⟨_, _, _, rfl, cbcdecCommand_endsDiscarded s, fun _ => hkeep⟩
  · exact ⟨_, _, _, rfl, sealCommand_endsDiscarded s, fun _ => hkeep⟩
  · obtain ⟨x, n, h⟩ := openCommand_endsDiscarded s
    exact ⟨_, x, n, rfl, h, absurd rfl⟩

/-- The length of the key is the first thing a top-level command tests (R254). -/
theorem exec_topLevel_of_bad_key {i : Instr} (hi : i ∈ topLevel) {s : State} (h : ¬KeyOk s) :
    exec i s = .next { wiped s with err := 1, sub := 1 } := by
  rcases mem_topLevel_iff.1 hi with rfl | rfl | rfl | rfl
  · exact exec_cbcenc_of_bad_key h
  · exact exec_cbcdec_of_bad_key h
  · exact exec_seal_of_bad_key h
  · exact exec_open_of_bad_key h

theorem not_keyOk_of_klen_zero {s : State} (h : s.klen = 0) : ¬KeyOk s := by
  rw [KeyOk, h]
  decide

/-- Settles O50: the registers are read off the discard, which leaves no key behind; the other
commands follow the access matrix. -/
theorem topLevelCommandsAlwaysDiscard : Obligations.TopLevelCommandsAlwaysDiscard := by
  refine ⟨fun i hi s => ?_, fun i hi s hz => ?_⟩
  · obtain ⟨t, x, n, ht, hend, hiv⟩ := exec_topLevel_endsDiscarded hi s
    refine ⟨t, ht, ?_⟩
    rw [hend.frame]
    exact ⟨rfl, rfl, rfl, rfl, rfl, rfl, rfl, rfl, rfl, rfl, rfl, rfl, rfl, rfl, hiv,
      _, exec_topLevel_of_bad_key hi (not_keyOk_of_klen_zero rfl), rfl, rfl⟩
  · obtain ⟨t, ht, -, -, -, -, -, hkeys, -, hschedule, -⟩ := keepsRow_exec i s hz
    obtain ⟨hkey, hklen, hmkey, hmklen⟩ := hkeys hi
    exact ⟨t, ht, hkey, hklen, hmkey, hmklen, hschedule hi⟩

end Sys2Proof.Proofs
end

section
/-! The errors of a command (`60_exceptions.md` R250, R254, R256): each command ends with the first
error of its row of the table, or with success, and each error leaves what its rule says. The rows
are walked test by test, once for each command. -/

namespace Sys2Proof.Proofs

open Sys2Proof.Machine Sys2Proof.Claims

/-- ERR and SUB as the table of R254 writes them. -/
def reported (t : State) : Nat × Nat := (t.err.toNat, t.sub.toNat)

/-! ## The primitive commands -/

/-- How a command that does not discard ends in `t`: with success, with an error of its row, or with
no schedule to use in the states of log entry 8, of which the table says nothing. -/
inductive PrimitiveEnd (i : Instr) (s t : State) : Prop
  | success (ht : reported t = (0, 0)) (hrow : firstError i s = (0, 0))
  | error (e : CmdError) (ht : t = raiseError .primitive e s) (hrow : firstError i s = reported t)
  | noSchedule (ht : t = raiseError .primitive .scheduleInvalid s) (hrkv : s.rkv = true)
      (hno : ¬ScheduleOk s)

theorem firstError_blockCommand_of_not_rkv {i : Instr} (hi : BlockCommand i) {s : State}
    (h : s.rkv = false) : firstError i s = (7, 0) := by
  rcases hi with ⟨r, rfl⟩ | rfl | rfl <;> simp [firstError, h]

theorem primitiveEnd_of_no_schedule {i : Instr} (hi : BlockCommand i) {s : State}
    (hno : ¬ScheduleOk s) : ∃ t, exec i s = .next t ∧ PrimitiveEnd i s t := by
  refine ⟨_, exec_blockCommand_of_no_schedule hi ((heldVariant_eq_none s).2 hno), ?_⟩
  cases hrkv : s.rkv with
  | true => exact .noSchedule rfl hrkv hno
  | false => exact .error _ rfl (firstError_blockCommand_of_not_rkv hi hrkv)

theorem primitiveEnd_addrk (r : Nat) (s : State) :
    ∃ t, exec (.addrk r) s = .next t ∧ PrimitiveEnd (.addrk r) s t := by
  by_cases hok : ScheduleOk s
  case neg => exact primitiveEnd_of_no_schedule (.inl ⟨r, rfl⟩) hok
  by_cases hr : s.nr.toNat < r
  · exact ⟨_, exec_addrk_of_no_roundKey (heldRoundKey_eq_none (.inr hr)),
      .error _ rfl (if_pos (.inr hr))⟩
  · obtain ⟨k, hk, -⟩ := exists_heldRoundKey hok (Nat.le_of_not_lt hr)
    exact ⟨_, exec_addrk_of_heldRoundKey hk, .success rfl (if_neg (by simp [hok.1, hr]))⟩

theorem primitiveEnd_encb_or_decb {i : Instr} (hi : i = .encb ∨ i = .decb) (s : State) :
    ∃ t, exec i s = .next t ∧ PrimitiveEnd i s t := by
  by_cases hok : ScheduleOk s
  case neg => exact primitiveEnd_of_no_schedule (.inr hi) hok
  obtain ⟨v, hv⟩ := exists_heldVariant hok
  have hrkv : ¬s.rkv = false := by simp [hok.1]
  rcases hi with rfl | rfl
  · rw [exec, execEncb, hv]
    exact ⟨_, rfl, .success rfl (if_neg hrkv)⟩
  · rw [exec, execDecb, hv]
    exact ⟨_, rfl, .success rfl (if_neg hrkv)⟩

theorem primitiveEnd_kexp (s : State) : ∃ t, exec .kexp s = .next t ∧ PrimitiveEnd .kexp s t := by
  by_cases hkey : KeyOk s
  · exact ⟨_, exec_kexp_of_keyVariant (keyVariant_eq_variantOf hkey),
      .success rfl (if_neg (not_not.2 hkey))⟩
  · exact ⟨_, exec_kexp_of_no_keyVariant ((keyVariant_eq_none s).2 hkey),
      .error _ rfl (if_pos hkey)⟩

theorem primitiveEnd_pad (s : State) : ∃ t, exec .pad s = .next t ∧ PrimitiveEnd .pad s t := by
  by_cases hover : Config.params.bufCap < paddedLen s
  · exact ⟨_, exec_pad_of_overflow hover, .error _ rfl (if_pos hover)⟩
  · exact ⟨_, exec_pad_of_fits (Nat.le_of_not_lt hover), .success rfl (if_neg hover)⟩

theorem primitiveEnd_unpad (s : State) :
    ∃ t, exec .unpad s = .next t ∧ PrimitiveEnd .unpad s t := by
  by_cases hover : Config.params.bufCap < lenOf s
  · exact ⟨_, exec_unpad_of_overflow hover, .error _ rfl (if_pos hover)⟩
  have hcap := Nat.le_of_not_lt hover
  by_cases hlen : lenOf s = 0 ∨ lenOf s % 16 ≠ 0
  · exact ⟨_, exec_unpad_of_bad_length hcap hlen,
      .error _ rfl ((if_neg hover).trans (if_pos hlen))⟩
  obtain ⟨hpos, hmod⟩ : lenOf s ≠ 0 ∧ lenOf s % 16 = 0 := by rwa [not_or, not_not] at hlen
  have hpad := padByteBad_iff (s.buf.read (lenOf s - 1))
  cases hbad : padByteBad (s.buf.read (lenOf s - 1)) with
  | true =>
    exact ⟨_, exec_unpad_of_bad_pad hcap hpos hmod hbad, .error _ rfl
      ((if_neg hover).trans ((if_neg hlen).trans (if_pos (hpad.1 hbad))))⟩
  | false =>
    have hgood := mt hpad.2 (Bool.not_eq_true _ ▸ hbad)
    exact ⟨_, exec_unpad_of_good_pad hcap hpos hmod hbad, .success rfl
      ((if_neg hover).trans ((if_neg hlen).trans (if_neg hgood)))⟩

theorem primitiveEnd_exec {i : Instr} (hi : i ∉ topLevel) (s : State) :
    ∃ t, exec i s = .next t ∧ PrimitiveEnd i s t := by
  cases i with
  | nop | zeroize | gfmul | subbF | subbI | subsF | subsI | shrF | shrI | mixcF | mixcI =>
    exact ⟨_, rfl, .success rfl rfl⟩
  | addrk r => exact primitiveEnd_addrk r s
  | kexp => exact primitiveEnd_kexp s
  | encb => exact primitiveEnd_encb_or_decb (.inl rfl) s
  | decb => exact primitiveEnd_encb_or_decb (.inr rfl) s
  | pad => exact primitiveEnd_pad s
  | unpad => exact primitiveEnd_unpad s
  | cbcenc | cbcdec | sealContainer | openContainer => exact absurd (by decide) hi

/-! ## The top-level commands -/

/-- What a failing top-level command leaves (R256), as FailingCommandsLeaveBufAndLen says it. -/
def FailureLeaves (i : Instr) (s t : State) : Prop :=
  (t.err ≠ 3 →
    t = { wiped s with iv := t.iv, ivlen := t.ivlen, err := t.err, sub := t.sub } ∧
    (i ≠ .openContainer ∨ t.err ≠ 2 ∨ s.len.toNat < 16 + Config.params.macLen →
      t.iv = s.iv ∧ t.ivlen = s.ivlen)) ∧
  (i = .cbcdec → t.err = 3 → t.len = 0 ∧ (∀ a, a < s.len.toNat → t.buf.read a = 0) ∧
    ∀ a, s.len.toNat ≤ a → t.buf.read a = s.buf.read a) ∧
  (i = .openContainer → t.err = 3 → t.len = 0 ∧ t.iv = containerIv s ∧ t.ivlen = 16 ∧
    (∀ a, a < clenOf s → t.buf.read a = 0) ∧
    ∀ a, clenOf s ≤ a → t.buf.read a = s.buf.read a)

/-- How a top-level command ends in `t`: it reports what its row says (R254), and an error leaves
what R256 says. -/
structure TopLevelEnd (i : Instr) (s t : State) : Prop where
  reports : reported t = firstError i s
  leaves : firstError i s ≠ (0, 0) → FailureLeaves i s t

theorem TopLevelEnd.success {i : Instr} {s t : State} (ht : reported t = (0, 0))
    (hrow : firstError i s = (0, 0)) : TopLevelEnd i s t :=
  ⟨ht.trans hrow.symm, fun h => absurd hrow h⟩

theorem TopLevelEnd.failure {i : Instr} {s t : State} (x : Nat × Nat) (ht : reported t = x)
    (hrow : firstError i s = x) (hleaves : FailureLeaves i s t) : TopLevelEnd i s t :=
  ⟨ht.trans hrow.symm, fun _ => hleaves⟩

/-- An error found before anything is written. -/
theorem TopLevelEnd.refused {i : Instr} {s : State} {e : BitVec 4} {c : BitVec 3}
    (hrow : firstError i s = (e.toNat, c.toNat)) (he : e ≠ 3 := by decide) :
    TopLevelEnd i s { wiped s with err := e, sub := c } :=
  .failure _ rfl hrow
    ⟨fun _ => ⟨rfl, fun _ => ⟨rfl, rfl⟩⟩, fun _ h => absurd h he, fun _ h => absurd h he⟩

theorem firstError_of_bad_key {i : Instr} (hi : i ∈ topLevel) {s : State} (h : ¬KeyOk s) :
    firstError i s = (1, 1) := by
  rcases mem_topLevel_iff.1 hi with rfl | rfl | rfl | rfl <;> exact if_pos h

theorem topLevelEnd_of_bad_key {i : Instr} (hi : i ∈ topLevel) {s : State} (h : ¬KeyOk s) :
    ∃ t, exec i s = .next t ∧ TopLevelEnd i s t :=
  ⟨_, exec_topLevel_of_bad_key hi h, .refused (firstError_of_bad_key hi h)⟩

theorem topLevelEnd_cbcenc (s : State) :
    ∃ t, exec .cbcenc s = .next t ∧ TopLevelEnd .cbcenc s t := by
  by_cases hkey : KeyOk s
  case neg => exact topLevelEnd_of_bad_key (by decide) hkey
  by_cases hiv : s.ivlen.toNat = 16
  case neg =>
    exact ⟨_, exec_cbcenc_of_bad_iv hkey hiv, .refused (by simp [firstError, hkey, hiv])⟩
  by_cases hover : Config.params.bufCap < paddedLen s
  · exact ⟨_, exec_cbcenc_of_overflow hkey hiv hover,
      .refused (by simp [firstError, hkey, hiv, hover])⟩
  · exact ⟨_, exec_cbcenc_of_fits hkey hiv (Nat.le_of_not_lt hover),
      .success rfl (by simp [firstError, hkey, hiv, hover])⟩

theorem topLevelEnd_seal (s : State) :
    ∃ t, exec .sealContainer s = .next t ∧ TopLevelEnd .sealContainer s t := by
  by_cases hkey : KeyOk s
  case neg => exact topLevelEnd_of_bad_key (by decide) hkey
  by_cases hiv : s.ivlen.toNat = 16
  case neg =>
    exact ⟨_, exec_seal_of_bad_iv hkey hiv, .refused (by simp [firstError, hkey, hiv])⟩
  by_cases hmac : MacKeyOk s
  case neg =>
    exact ⟨_, exec_seal_of_bad_macKey hkey hiv hmac,
      .refused (by simp [firstError, hkey, hiv, hmac])⟩
  by_cases hover : Config.params.bufCap < paddedLen s + 16 + Config.params.macLen
  · exact ⟨_, exec_seal_of_overflow hkey hiv hmac hover,
      .refused (by simp [firstError, hkey, hiv, hmac, hover])⟩
  · exact ⟨_, exec_seal_of_fits hkey hiv hmac (Nat.le_of_not_lt hover),
      .success rfl (by simp [firstError, hkey, hiv, hmac, hover])⟩

theorem failureLeaves_cbcdec_paddingRefused {s : State} (hwf : s.buf.wf) :
    FailureLeaves .cbcdec s (paddingRefused (lenOf s) s) := by
  have hread := read_paddingRefused hwf (lenOf s)
  exact ⟨absurd rfl, fun _ _ => ⟨rfl, fun a ha => (hread a).trans (if_pos ha),
    fun a ha => (hread a).trans (if_neg (Nat.not_lt.2 ha))⟩, nofun⟩

theorem failureLeaves_open_paddingRefused {s : State} (hwf : s.buf.wf) :
    FailureLeaves .openContainer s (paddingRefused (clenOf s) (withContainerIv s)) := by
  have hread := read_paddingRefused (s := withContainerIv s) hwf (clenOf s)
  exact ⟨absurd rfl, nofun, fun _ _ => ⟨rfl, rfl, rfl, fun a ha => (hread a).trans (if_pos ha),
    fun a ha => (hread a).trans (if_neg (Nat.not_lt.2 ha))⟩⟩

/-- A container of a bad length is refused after its IV has been loaded (R215). -/
theorem failureLeaves_open_of_bad_length {s : State} (hlong : 16 + Config.params.macLen ≤ lenOf s) :
    FailureLeaves .openContainer s { wiped (withContainerIv s) with err := 2, sub := 0 } := by
  refine ⟨fun _ => ⟨rfl, fun h => ?_⟩, nofun, nofun⟩
  rcases h with h | h | h
  · exact absurd rfl h
  · exact absurd rfl h
  · exact absurd h (Nat.not_lt.2 hlong)

theorem topLevelEnd_cbcdec {s : State} (hwf : s.buf.wf) :
    ∃ t, exec .cbcdec s = .next t ∧ TopLevelEnd .cbcdec s t := by
  by_cases hkey : KeyOk s
  case neg => exact topLevelEnd_of_bad_key (by decide) hkey
  by_cases hiv : s.ivlen.toNat = 16
  case neg =>
    exact ⟨_, exec_cbcdec_of_bad_iv hkey hiv, .refused (by simp [firstError, hkey, hiv])⟩
  by_cases hover : Config.params.bufCap < s.len.toNat
  · exact ⟨_, exec_cbcdec_of_overflow hkey hiv hover,
      .refused (by simp [firstError, hkey, hiv, hover])⟩
  have hend := fun {t} => exec_cbcdec_of_fits (t := t) hkey hiv (Nat.le_of_not_lt hover)
  by_cases hlen : s.len.toNat = 0 ∨ s.len.toNat % 16 ≠ 0
  · exact ⟨_, hend (cbcDecryptInPlace_of_bad_length s hlen),
      .refused (by simp [firstError, hkey, hiv, hover, hlen])⟩
  obtain ⟨hpos, hmod⟩ : s.len.toNat ≠ 0 ∧ s.len.toNat % 16 = 0 := by rwa [not_or, not_not] at hlen
  by_cases hpad : PadBad s s.iv s.len.toNat
  · exact ⟨_, hend (cbcDecryptInPlace_of_bad_pad hwf hpos hmod hpad),
      .failure (3, 0) rfl (by simp [firstError, hkey, hiv, hover, hlen, hpad])
        (failureLeaves_cbcdec_paddingRefused hwf)⟩
  · exact ⟨_, hend (cbcDecryptInPlace_of_good_pad hwf hpos hmod hpad),
      .success rfl (by simp [firstError, hkey, hiv, hover, hlen, hpad])⟩

theorem topLevelEnd_open {s : State} (hwf : s.buf.wf) :
    ∃ t, exec .openContainer s = .next t ∧ TopLevelEnd .openContainer s t := by
  by_cases hkey : KeyOk s
  case neg => exact topLevelEnd_of_bad_key (by decide) hkey
  by_cases hmac : MacKeyOk s
  case neg =>
    exact ⟨_, exec_open_of_bad_macKey hkey hmac,
      .refused (by simp [firstError, hkey, hmac])⟩
  by_cases hover : Config.params.bufCap < s.len.toNat
  · exact ⟨_, exec_open_of_overflow hkey hmac hover,
      .refused (by simp [firstError, hkey, hmac, hover])⟩
  have hcap := Nat.le_of_not_lt hover
  by_cases hshort : s.len.toNat < 16 + Config.params.macLen
  · exact ⟨_, exec_open_of_short hkey hmac hcap hshort,
      .refused (by simp [firstError, hkey, hmac, hover, hshort])⟩
  have hlong := Nat.le_of_not_lt hshort
  by_cases htag : TagOk s (clenOf s)
  case neg =>
    exact ⟨_, exec_open_of_bad_tag hkey hmac hcap hlong htag,
      .refused (by simp [firstError, hkey, hmac, hover, hshort, htag])⟩
  by_cases hlen : clenOf s = 0 ∨ clenOf s % 16 ≠ 0
  · exact ⟨_, exec_open_of_bad_length hkey hmac hcap hlong htag hlen,
      .failure (2, 0) rfl (by simp [firstError, hkey, hmac, hover, hshort, htag, hlen])
        (failureLeaves_open_of_bad_length hlong)⟩
  obtain ⟨hpos, hmod⟩ : clenOf s ≠ 0 ∧ clenOf s % 16 = 0 := by rwa [not_or, not_not] at hlen
  have hend := fun {t} =>
    exec_open_of_good_length (t := t) hkey hmac hcap hlong htag hpos hmod
  by_cases hpad : PadBad s (containerIv s) (clenOf s)
  · exact ⟨_, hend (cbcDecryptInPlace_of_bad_pad (s := withContainerIv s) hwf hpos hmod hpad),
      .failure (3, 0) rfl (by simp [firstError, hkey, hmac, hover, hshort, htag, hlen, hpad])
        (failureLeaves_open_paddingRefused hwf)⟩
  · exact ⟨_, hend (cbcDecryptInPlace_of_good_pad (s := withContainerIv s) hwf hpos hmod hpad),
      .success rfl (by simp [firstError, hkey, hmac, hover, hshort, htag, hlen, hpad])⟩

theorem topLevelEnd_exec {i : Instr} (hi : i ∈ topLevel) {s : State} (hwf : s.buf.wf) :
    ∃ t, exec i s = .next t ∧ TopLevelEnd i s t := by
  rcases mem_topLevel_iff.1 hi with rfl | rfl | rfl | rfl
  · exact topLevelEnd_cbcenc s
  · exact topLevelEnd_cbcdec hwf
  · exact topLevelEnd_seal s
  · exact topLevelEnd_open hwf

/-! ## What is reported, and what a failure leaves -/

/-- Settles O48: by the way each command ends; the premise on NR excludes the states of log
entry 8. -/
theorem firstErrorIsReported : Obligations.FirstErrorIsReported := by
  intro i s hwf hschedule
  by_cases hi : i ∈ topLevel
  · obtain ⟨t, ht, hend⟩ := topLevelEnd_exec hi hwf
    exact ⟨t, ht, hend.reports⟩
  · obtain ⟨t, ht, hend⟩ := primitiveEnd_exec hi s
    refine ⟨t, ht, ?_⟩
    cases hend with
    | success hcodes hrow => exact hcodes.trans hrow.symm
    | error _ _ hrow => exact hrow.symm
    | noSchedule _ hrkv hno => exact absurd (hschedule hrkv) hno

theorem PrimitiveEnd.eq_raiseError {i : Instr} {s t : State} (h : PrimitiveEnd i s t)
    (hrow : firstError i s ≠ (0, 0)) : ∃ e, t = raiseError .primitive e s := by
  cases h with
  | success _ hsuccess => exact absurd hsuccess hrow
  | error e ht => exact ⟨e, ht⟩
  | noSchedule ht => exact ⟨_, ht⟩

/-- Settles O49: raising an error changes ERR and SUB only, and a top-level command ends as its
table row says. -/
theorem failingCommandsLeaveBufAndLen : Obligations.FailingCommandsLeaveBufAndLen := by
  refine ⟨fun s v hidle hv => ⟨_, illegalWordRaisesIllegalCommand s v hidle hv, rfl⟩,
    fun i s hwf hidle hrow => ?_⟩
  by_cases hi : i ∈ topLevel
  · obtain ⟨t, ht, hend⟩ := topLevelEnd_exec hi hwf
    obtain ⟨hkept, hcbcdec, hopen⟩ := hend.leaves hrow
    exact ⟨t, ht, absurd hi, fun _ => hkept, hcbcdec, hopen⟩
  · obtain ⟨t, ht, hend⟩ := primitiveEnd_exec hi s
    obtain ⟨e, rfl⟩ := hend.eq_raiseError hrow
    refine ⟨_, ht, fun _ => ?_, fun h => absurd h hi, ?_, ?_⟩
    · rw [raiseError_primitive_idle e hidle]
    · rintro rfl
      exact absurd (by decide) hi
    · rintro rfl
      exact absurd (by decide) hi

/-! ## IntegrityError -/

theorem firstError_fst_ne_four {i : Instr} (hi : i ≠ .openContainer) (s : State) :
    (firstError i s).1 ≠ 4 := by
  cases i with
  | openContainer => exact absurd rfl hi
  | nop | zeroize | gfmul | subbF | subbI | subsF | subsI | shrF | shrI | mixcF | mixcI =>
    exact nofun
  | addrk | kexp | encb | decb | pad | unpad | cbcenc | cbcdec | sealContainer =>
    simp only [firstError]
    split_ifs <;> decide

theorem err_ne_four_of_reported {i : Instr} {s t : State} (hi : i ≠ .openContainer)
    (h : reported t = firstError i s) : t.err ≠ 4 := by
  intro herr
  have hfst : (firstError i s).1 = t.err.toNat := congrArg Prod.fst h.symm
  exact firstError_fst_ne_four hi s (hfst.trans (congrArg BitVec.toNat herr))

theorem PrimitiveEnd.err_ne_four {i : Instr} {s t : State} (h : PrimitiveEnd i s t)
    (hi : i ≠ .openContainer) : t.err ≠ 4 := by
  cases h with
  | success ht hrow => exact err_ne_four_of_reported hi (ht.trans hrow.symm)
  | error _ _ hrow => exact err_ne_four_of_reported hi hrow.symm
  | noSchedule ht =>
    rw [ht]
    exact (by decide : (7 : BitVec 4) ≠ 4)

theorem err_cbcDecryptInPlace_ne_four (v : Variant) (n : Nat) (s : State) :
    (cbcDecryptInPlace v n s).err ≠ 4 := by
  rcases cbcDecryptInPlace_cases (v := v) n s with ⟨-, h⟩ | ⟨-, -, h⟩ | ⟨-, -, h⟩ <;> rw [h]
  · exact (by decide : (2 : BitVec 4) ≠ 4)
  · exact (by decide : (3 : BitVec 4) ≠ 4)
  · exact (by decide : (0 : BitVec 4) ≠ 4)

/-- For every BUF, in canonical form or not. -/
theorem exec_cbcdec_err_ne_four (s : State) : ∃ t, exec .cbcdec s = .next t ∧ t.err ≠ 4 := by
  by_cases hkey : KeyOk s
  case neg => exact ⟨_, exec_cbcdec_of_bad_key hkey, (by decide : (1 : BitVec 4) ≠ 4)⟩
  by_cases hiv : s.ivlen.toNat = 16
  case neg => exact ⟨_, exec_cbcdec_of_bad_iv hkey hiv, (by decide : (1 : BitVec 4) ≠ 4)⟩
  by_cases hover : Config.params.bufCap < lenOf s
  · exact ⟨_, exec_cbcdec_of_overflow hkey hiv hover, (by decide : (1 : BitVec 4) ≠ 4)⟩
  · exact ⟨_, exec_cbcdec_of_fits hkey hiv (Nat.le_of_not_lt hover) rfl,
      err_cbcDecryptInPlace_ne_four _ _ s⟩

theorem exec_err_ne_four {i : Instr} (hi : i ≠ .openContainer) (s : State) :
    ∃ t, exec i s = .next t ∧ t.err ≠ 4 := by
  by_cases htop : i ∈ topLevel
  case neg =>
    obtain ⟨t, ht, hend⟩ := primitiveEnd_exec htop s
    exact ⟨t, ht, hend.err_ne_four hi⟩
  rcases mem_topLevel_iff.1 htop with rfl | rfl | rfl | rfl
  · obtain ⟨t, ht, hend⟩ := topLevelEnd_cbcenc s
    exact ⟨t, ht, err_ne_four_of_reported hi hend.reports⟩
  · exact exec_cbcdec_err_ne_four s
  · obtain ⟨t, ht, hend⟩ := topLevelEnd_seal s
    exact ⟨t, ht, err_ne_four_of_reported hi hend.reports⟩
  · exact absurd rfl hi

/-- Settles O43: OPEN stops at the tag, and code 4 stands in no other row of the table. -/
theorem tagMismatchLeavesTheBuffer : Obligations.TagMismatchLeavesTheBuffer := by
  refine ⟨fun s => exec_open_of_bad_tag, fun i s t hi ht => ?_⟩
  obtain ⟨u, hu, herr⟩ := exec_err_ne_four hi s
  cases hu.symm.trans ht
  exact herr

end Sys2Proof.Proofs
end
